-- ==== Sys2Proof/Config.lean ====
section
/-!
DEFINITION. What an implementation fixes (spec/00_scope.md R7, R8; spec/10_state.md R48): none of it is state and no operation
writes any of it. The parameters that only touch the outside of the block (`RowMap`, the polarities, the stimulus's `S` and `G`)
are arguments of the functions of Machine/Outputs.lean and Machine/Stimulus.lean.
-/

namespace Sys2Proof.Config

/-- `TW`, the width in bits of the interval timer, of both intervals and of `bw` (R8, decision D1). The spec leaves it open
("TW >= 4; default 16") and lets a model use the default. DESIGN CHOICE, unsafe: notes/assumptions/1.md. The arithmetic of
R158 is written for every width (`Machine.periods`). -/
abbrev timerWidth : Nat := 16

/-- `LINE0`, the level of the input line at reset: high (R8, R55, decision D27; notes/assumptions/3.md). -/
abbrev line0 : Bool := true

/-- `RING_LEN`: ring capacity in bytes, header, payload and checksum (R7, R39). -/
abbrev ringLen : Nat := 11

/-- `HDR_LEN` (R7). -/
abbrev headerLen : Nat := 2

/-- `PAY_LEN`: one byte for each display row (R7). -/
abbrev payloadLen : Nat := 8

/-- `SUM_LEN` (R7). -/
abbrev checksumLen : Nat := 1

/-- `HDR0`, the first header byte to arrive (R7). -/
abbrev header0 : BitVec 8 := 0x55#8

/-- `HDR1`, the second header byte to arrive (R7). -/
abbrev header1 : BitVec 8 := 0xAA#8

/-- `ROWS` (R7). -/
abbrev rows : Nat := 8

/-- `COLS` (R7). -/
abbrev cols : Nat := 8

/-- `BITS_PER_BYTE`: bit periods counted for one byte after the start pulse (R7). -/
abbrev bitsPerByte : Nat := 9

/-- `REFRESH_HZ` as the formula of R208 and R238 gives it. Timing only: no rule reads it (decision D36). -/
def refreshHz (clockHz prescaler compareValue : Nat) : Rat := clockHz / (prescaler * compareValue)

/-- The rate of full pictures, eight rows each (R208, R274). Timing only. -/
def pictureHz (refresh : Rat) : Rat := refresh / rows

end Sys2Proof.Config
end

