-- ==== Sys2Proof/Word.lean ====
section
/-!
DEFINITION. The word types of the block. All values are unsigned (spec/00_scope.md R9).
-/

namespace Sys2Proof

/-- A cell of `ring` or `disp`, `acc.data`, `COL` or `ROWSEL`. -/
abbrev Byte := BitVec 8

/-- A level of the input line: `true` is 1, high (R11, decision D3). -/
abbrev Level := Bool

/-- A value in timer ticks, `TW` bits (R8): `tcnt`, an interval, `bw`. -/
abbrev Interval := BitVec Config.timerWidth

end Sys2Proof
end

