-- ==== Sys2Proof/Syntax.lean ====
section
/-!
DEFINITION. The operations of the block (spec/opcode_table.json, spec/30_encoding.md R113, R115), the agents that run them
(spec/00_scope.md R14), the triggers that make an agent act, and the two forms of selector word (R112, R114).
-/

namespace Sys2Proof

/-- The agents that take steps (R14). -/
inductive Agent where
  /-- `ENV`, the interval timer. -/
  | env
  /-- `EC`, EdgeCapture. -/
  | edgeCapture
  /-- `FG`, SignalDecoder and FrameSync. -/
  | foreground
  /-- `DS`, DisplayScanner. -/
  | displayScanner
deriving DecidableEq, Repr

/-- What makes an agent act, one for each value of the field `AG` of R112. A list of triggers is a program of R120's primitive
statements: `TMR n` is `n` times `timerTick`, `CAP L` is `lineTransition L`, `FG` is `foreground`, `TICK` is `refreshTick`. -/
inductive Trigger where
  /-- One tick of the interval timer (`ENV`). -/
  | timerTick
  /-- The environment changes the input line to `newLevel` (`EC`). -/
  | lineTransition (newLevel : Level)
  /-- One iteration of the foreground loop (`FG`). -/
  | foreground
  /-- One tick of the refresh timer (`DS`). -/
  | refreshTick
deriving DecidableEq, Repr

/-- A selector word: the dispatch key of a top-level operation (R112) or of a sub-operation (R114). -/
inductive SelWord where
  | top (w : BitVec 12)
  | sub (w : BitVec 8)
deriving DecidableEq, Repr

/-- The operations, one constructor for each row of spec/opcode_table.json: 20 top-level operations (R113), then 10
sub-operations (R115). An operand is a single bit, so every term is an operation of the table. -/
inductive Instr where
  /-- `TMR.INC` (R140). -/
  | tmrInc
  /-- `CAP L` (R142). -/
  | cap (newLevel : Level)
  /-- `HALT` (R160). -/
  | halt
  /-- `POLL.NOP` (R151). -/
  | pollNop
  /-- `IDLE.FALL` (R152). -/
  | idleFall
  /-- `IDLE.RISE` (R153). -/
  | idleRise
  /-- `START.FALL` (R155). -/
  | startFall
  /-- `START.RISE` (R154). -/
  | startRise
  /-- `DATA.EDGE L` (R157). -/
  | dataEdge (newLevel : Level)
  /-- `DATA.FAULT` (R156). -/
  | dataFault
  /-- `COPY.0` (R186). -/
  | copy0
  /-- `COPY.1` (R186). -/
  | copy1
  /-- `COPY.2` (R186). -/
  | copy2
  /-- `COPY.3` (R186). -/
  | copy3
  /-- `COPY.4` (R186). -/
  | copy4
  /-- `COPY.5` (R186). -/
  | copy5
  /-- `COPY.6` (R186). -/
  | copy6
  /-- `COPY.7` (R186). -/
  | copy7
  /-- `CLEAR` (R187). -/
  | clear
  /-- `TICK` (R200). -/
  | tick
  /-- `PERIODS` (R158), invoked by `DATA.EDGE`. -/
  | periods
  /-- `SHIFT b` (R159), invoked by `DATA.EDGE`. -/
  | shift (bit : Bool)
  /-- `APPEND` (R181), invoked by `SHIFT`. -/
  | append
  /-- `SCAN.NOHDR` (R182), invoked by `APPEND`. -/
  | scanNohdr
  /-- `SCAN.BADSUM` (R184), invoked by `APPEND`. -/
  | scanBadsum
  /-- `SCAN.ACCEPT` (R185), invoked by `APPEND`. -/
  | scanAccept
  /-- `T.ADV` (R201), invoked by `TICK`. -/
  | tAdv
  /-- `T.BLANK` (R202), invoked by `TICK`. -/
  | tBlank
  /-- `T.COLS` (R203), invoked by `TICK`. -/
  | tCols
  /-- `T.SELECT` (R204), invoked by `TICK`. -/
  | tSelect
deriving DecidableEq, Repr

/-- The agent that runs an operation; a sub-operation belongs to the agent of the operation that invokes it (R14, R113,
R115). -/
def Instr.agent : Instr → Agent
  | .tmrInc => .env
  | .cap _ => .edgeCapture
  | .halt => .foreground
  | .pollNop => .foreground
  | .idleFall => .foreground
  | .idleRise => .foreground
  | .startFall => .foreground
  | .startRise => .foreground
  | .dataEdge _ => .foreground
  | .dataFault => .foreground
  | .copy0 => .foreground
  | .copy1 => .foreground
  | .copy2 => .foreground
  | .copy3 => .foreground
  | .copy4 => .foreground
  | .copy5 => .foreground
  | .copy6 => .foreground
  | .copy7 => .foreground
  | .clear => .foreground
  | .tick => .displayScanner
  | .periods => .foreground
  | .shift _ => .foreground
  | .append => .foreground
  | .scanNohdr => .foreground
  | .scanBadsum => .foreground
  | .scanAccept => .foreground
  | .tAdv => .displayScanner
  | .tBlank => .displayScanner
  | .tCols => .displayScanner
  | .tSelect => .displayScanner

/-- Whether the operation is scheduled by itself (format `TOP`, R113) or runs only inside another one (format `SUB`, R115). -/
def Instr.isTop : Instr → Bool
  | .periods | .shift _ | .append | .scanNohdr | .scanBadsum | .scanAccept | .tAdv | .tBlank | .tCols | .tSelect => false
  | .tmrInc | .cap _ | .halt | .pollNop | .idleFall | .idleRise | .startFall | .startRise | .dataEdge _ | .dataFault
  | .copy0 | .copy1 | .copy2 | .copy3 | .copy4 | .copy5 | .copy6 | .copy7 | .clear | .tick => true

/-- The agent that a trigger lets act (R112, field `AG`). -/
def Trigger.agent : Trigger → Agent
  | .timerTick => .env
  | .lineTransition _ => .edgeCapture
  | .foreground => .foreground
  | .refreshTick => .displayScanner

end Sys2Proof
end

