-- ==== Sys2Proof/Machine/State.lean ====
section
/-!
DEFINITION. The state of the block (spec/10_state.md R30 to R47), its reset (R55), and the ways a step can stop.
-/

namespace Sys2Proof.Machine

/-- One of the two byte arrays (R70) as a list of the cells that do not read 0x00: indices strictly rising, no entry equal to what
an unlisted cell reads as (`Memory.wf` of Machine/Ops.lean). `ring` has the indices 0..10, `disp` 0..7; the spec gives neither an
address beyond them (R71, R72, R83). -/
abbrev Memory := List Host.Cell

/-- What a cell that is not listed reads as: the reset contents of both arrays (R55). notes/assumptions/12.md -/
abbrev Memory.unlisted : Byte := 0x00#8

/-- EdgeObservation, the shape of `obs` and of `last` (R33, R34). -/
structure Observation where
  /-- The level after the transition (R33). -/
  level : Level
  /-- Timer ticks since the transition before it (R33). -/
  interval : Interval
deriving DecidableEq, Repr

/-- BitAccumulator (R37). -/
structure Accumulator where
  /-- `acc.data`: the byte in progress. -/
  data : Byte
  /-- `acc.cnt`: bitCount, 4 bits (R37). DESIGN CHOICE: its values 11 to 15, which U10 refuses after `START.RISE` or lets a model make
  unrepresentable, can be written down. notes/assumptions/21.md -/
  cnt : BitVec 4
deriving DecidableEq, Repr

/-- The configuration record `cfg` (R50): what the bring-up must have done before the block runs (70_reset_and_hazards.md R256 to
R260). Each field says whether its row of R50 holds. No operation reads or writes it. -/
structure BringUp where
  /-- `cfg.edge_irq`: edge interrupt enabled on both edges of the input pin (R256). -/
  edgeIrq : Bool
  /-- `cfg.interval_timer`: running, free-running (R257). -/
  intervalTimer : Bool
  /-- `cfg.refresh_timer`: running, periodic compare-match (R258). -/
  refreshTimer : Bool
  /-- `cfg.gpio`: directions and pulls (R259). -/
  gpio : Bool
  /-- `cfg.global_irq`: interrupts enabled (R260). -/
  globalIrq : Bool
  /-- `cfg.prescaler` and `cfg.compare` give the wanted refresh rate (R50, R208). -/
  refreshRate : Bool
deriving DecidableEq, Repr

/-- Every precondition of R50 holds. -/
def BringUp.complete : BringUp := ⟨true, true, true, true, true, true⟩

/-- The state: the cells of R30, in its order, and three fields that are not cells of the block. -/
structure State where
  /-- `line`: level of the input (R31). -/
  line : Level
  /-- `tcnt`: the interval timer (R32). -/
  tcnt : Interval
  /-- `obs`: the one-slot mailbox (R33, R35). -/
  obs : Observation
  /-- `last`: the last-seen observation (R34). -/
  last : Observation
  /-- `st`: DecoderState; Idle 0, Start 1, Data 2, and 3 is never written (R38). -/
  st : BitVec 2
  /-- `bw`: BitWidth (R36). -/
  bw : Interval
  /-- `acc`: BitAccumulator (R37). -/
  acc : Accumulator
  /-- `ring[0..10]`: RingBuffer (R39). -/
  ring : Memory
  /-- `cur`: the write cursor, 0 to 10 (R40); the codes 11 to 15 of its 4 bits are made unrepresentable
  (93_implementation_defined.md U10; notes/assumptions/11.md). -/
  cur : Fin 11
  /-- `disp[0..7]`: DisplayBuffer (R42). -/
  disp : Memory
  /-- `fg`: the foreground phase; Poll 0, Copy(i) i + 1, Clear 9, and 10 to 15 are never written (R46). -/
  fg : BitVec 4
  /-- `fault`: the sticky fault bit (R47). -/
  fault : Bool
  /-- `row`: the scanner's row index (R43). -/
  row : BitVec 3
  /-- `COL[7:0]`: the column outputs, 1 = lit (R44). -/
  col : Byte
  /-- `ROWSEL[7:0]`: the row-select outputs, 1 = asserted (R45). -/
  rowsel : Byte
  /-- `cfg`: the configuration record, a precondition of every rule (R50). notes/assumptions/10.md -/
  cfg : BringUp
  /-- The model's own: the triggers still to come, oldest first. An execution is any interleaving of the agents' operations
  (20_memory.md R84): this list is the interleaving. notes/assumptions/4.md -/
  schedule : List Trigger
  /-- The model's own: a sub-operation selector (30_encoding.md R114) presented alone. No operation sets it: "A sub-operation is
  never scheduled on its own". notes/assumptions/6.md -/
  subSel : Option (BitVec 8)
deriving DecidableEq, Repr

/-- How a step stops with a fault. The block's own fault, `CalibrationFault` (60_exceptions.md R220), is no stop: it is the cell
`fault`, and the machine goes on. -/
inductive Fault where
  /-- `PERIODS` presented alone with `bw = 0`: "the division is undefined" (R156, U1), and no quotient is formed. Raised by
  `execPeriods` only; `DATA.EDGE` never runs with `bw = 0` (R156, R229). Safe. notes/assumptions/9.md -/
  | zeroBitWidth
deriving DecidableEq, Repr

/-- How a step refuses. Each names something to which the spec gives no meaning; all are safe. -/
inductive Refusal where
  /-- An instruction of the table without a meaning yet: raised by no arm of `exec` now. Safe. -/
  | notModelled (mnemonic : String)
  /-- The operation's condition, as its rule states it, does not hold in this state: the block does not run it here
  (30_encoding.md R113, R119). Raised by the meaning of each conditional operation. Safe. notes/assumptions/7.md -/
  | notEnabled (op : Instr)
  /-- `CAP L` with `L = line`: no transition, "not enabled" (40_edge_capture.md R142, U11). Raised by `execCap`. Safe.
  notes/assumptions/7.md -/
  | noTransition
  /-- A top-level selector that matches no row (30_encoding.md R116). Raised by `fetch`. Safe. notes/assumptions/11.md -/
  | noTopRow (w : BitVec 12)
  /-- A sub-operation selector that matches no row (30_encoding.md R116). Raised by `fetch`. Safe. notes/assumptions/6.md -/
  | noSubRow (w : BitVec 8)
  /-- A precondition of `cfg` does not hold: "no rule of this spec says what the block does" (R50, U12). Raised by `fetch`. Safe.
  notes/assumptions/10.md -/
  | bringUpIncomplete
deriving DecidableEq, Repr

/-- The state right after reset (R55, 70_reset_and_hazards.md R250, R251), for a line level `LINE0` and any contents of the three
cells the spec leaves unspecified there (`bw`, `acc.data`, `acc.cnt`). -/
def State.resetWith (line0 : Level) (bw : Interval) (acc : Accumulator) : State where
  line := line0
  tcnt := 0#16
  obs := ⟨true, 0#16⟩
  last := ⟨true, 0#16⟩
  st := 0#2
  bw := bw
  acc := acc
  ring := []
  cur := 0
  disp := []
  fg := 0#4
  fault := false
  row := 0#3
  col := 0x00#8
  rowsel := 0x00#8
  cfg := BringUp.complete
  schedule := []
  subSel := none

/-- The machine right after reset: R55 with `LINE0 = 1`; `bw`, `acc.data` and `acc.cnt` are 0, DESIGN CHOICE
(notes/assumptions/2.md). -/
def State.reset : State := State.resetWith Config.line0 0#16 ⟨0x00#8, 0#4⟩

end Sys2Proof.Machine
end

