-- ==== Sys2Proof/Machine/Ops.lean ====
section
/-!
DEFINITION. The named operations over memory and registers: one read and one write of a byte array, one update for each cell, the
accessors of `ring` and `disp`, and the taking of the one fault.
-/

namespace Sys2Proof.Machine

/-- What one step answers. -/
abbrev Outcome := Host.Outcome State Fault Refusal

/-- `MemRead(M, i, 1)` (spec/00_scope.md R12). -/
def Memory.read : Memory → Nat → Byte
  | [], _ => Memory.unlisted
  | (k, v) :: rest, i => if k = i then v else Memory.read rest i

/-- The cell `i` no longer listed. -/
def Memory.unlist : Memory → Nat → Memory
  | [], _ => []
  | (k, x) :: rest, i => if k = i then Memory.unlist rest i else (k, x) :: Memory.unlist rest i

/-- The cell `i` listed with `v`, before the first larger index. -/
def Memory.enlist : Memory → Nat → Byte → Memory
  | [], i, v => [(i, v)]
  | (k, x) :: rest, i, v => if i < k then (i, v) :: (k, x) :: rest else (k, x) :: Memory.enlist rest i v

/-- `MemWrite(M, i, 1, v)` (R12), keeping the canonical form: a cell that is given what an unlisted cell reads as is no longer
listed. -/
def Memory.write (m : Memory) (i : Nat) (v : Byte) : Memory :=
  if v = Memory.unlisted then m.unlist i else (m.unlist i).enlist i v

/-- Every listed index is at least `lo` and below `size`, the indices rise strictly, and no entry is what an unlisted cell reads
as. -/
def Memory.wfFrom (lo size : Nat) : Memory → Bool
  | [] => true
  | (k, v) :: rest => decide (lo ≤ k) && decide (k < size) && decide (v ≠ Memory.unlisted) && Memory.wfFrom (k + 1) size rest

/-- The canonical form of an array of `size` cells. -/
def Memory.wf (size : Nat) (m : Memory) : Bool := Memory.wfFrom 0 size m

/-- The cells `0 .. count - 1` set to 0x00, one after the other (spec/42_frame_sync.md R187). -/
def Memory.zeroCells (m : Memory) : Nat → Memory
  | 0 => m
  | count + 1 => Memory.write (Memory.zeroCells m count) count 0x00#8

/-- `line <- v`. -/
def State.setLine (s : State) (v : Level) : State := { s with line := v }
/-- `tcnt <- v`. -/
def State.setTcnt (s : State) (v : Interval) : State := { s with tcnt := v }
/-- `obs <- v`, both fields together (R33, R81). -/
def State.setObs (s : State) (v : Observation) : State := { s with obs := v }
/-- `last <- v`, both fields together (R34). -/
def State.setLast (s : State) (v : Observation) : State := { s with last := v }
/-- `st <- v`. -/
def State.setSt (s : State) (v : BitVec 2) : State := { s with st := v }
/-- `bw <- v`. -/
def State.setBw (s : State) (v : Interval) : State := { s with bw := v }
/-- `acc.data`, `acc.cnt <- v`. -/
def State.setAcc (s : State) (v : Accumulator) : State := { s with acc := v }
/-- The whole of `ring`. -/
def State.setRing (s : State) (v : Memory) : State := { s with ring := v }
/-- `cur <- v`. -/
def State.setCur (s : State) (v : Fin 11) : State := { s with cur := v }
/-- The whole of `disp`. -/
def State.setDisp (s : State) (v : Memory) : State := { s with disp := v }
/-- `fg <- v`. -/
def State.setFg (s : State) (v : BitVec 4) : State := { s with fg := v }
/-- `fault <- v`. -/
def State.setFault (s : State) (v : Bool) : State := { s with fault := v }
/-- `row <- v`. -/
def State.setRow (s : State) (v : BitVec 3) : State := { s with row := v }
/-- `COL <- v`. -/
def State.setCol (s : State) (v : Byte) : State := { s with col := v }
/-- `ROWSEL <- v`. -/
def State.setRowsel (s : State) (v : Byte) : State := { s with rowsel := v }
/-- The configuration record. -/
def State.setCfg (s : State) (v : BringUp) : State := { s with cfg := v }
/-- The triggers still to come. -/
def State.setSchedule (s : State) (v : List Trigger) : State := { s with schedule := v }
/-- The sub-operation selector presented alone. -/
def State.setSubSel (s : State) (v : Option (BitVec 8)) : State := { s with subSel := v }

/-- `Idle` (R38). -/
abbrev stIdle : BitVec 2 := 0#2
/-- `Start` (R38). -/
abbrev stStart : BitVec 2 := 1#2
/-- `Data` (R38). -/
abbrev stData : BitVec 2 := 2#2

/-- `Poll` (R46). -/
abbrev fgPoll : BitVec 4 := 0#4
/-- `Copy(0)`, the phase `SCAN.ACCEPT` sets (R46, R185). -/
abbrev fgCopy0 : BitVec 4 := 1#4
/-- `Clear` (R46). -/
abbrev fgClear : BitVec 4 := 9#4

/-- `ring[i]` (R70, R71). -/
def State.ringRead (s : State) (i : Fin 11) : Byte := s.ring.read i.val
/-- `ring[i] <- v` (R70, R71). -/
def State.ringWrite (s : State) (i : Fin 11) (v : Byte) : State := s.setRing (s.ring.write i.val v)
/-- `disp[i]` (R70, R72). -/
def State.dispRead (s : State) (i : Fin 8) : Byte := s.disp.read i.val
/-- `disp[i] <- v` (R70, R72). -/
def State.dispWrite (s : State) (i : Fin 8) (v : Byte) : State := s.setDisp (s.disp.write i.val v)

/-- `last <- o`, the first write of every changed poll (spec/41_signal_decoder.md R150). -/
def State.sawObs (s : State) : State := s.setLast s.obs

/-- `raise CalibrationFault` (R12, spec/60_exceptions.md R220): the taking of the block's one fault. It sets the sticky bit and
saves nothing: no address, no value, no count; there is no vector and no handler, and no operation returns from it (R221, R230,
R231). -/
def State.raiseCalibrationFault (s : State) : State := s.setFault true

/-- An operation whose rule states a condition: its effect where the condition holds, and no meaning elsewhere
(notes/assumptions/7.md). -/
def runWhen (condition : Bool) (op : Instr) (result : State) : Outcome :=
  if condition then .next result else .refused (.notEnabled op)

end Sys2Proof.Machine
end

