-- ==== Sys2Proof/Machine/Operands.lean ====
section
/-!
DEFINITION. The values the block assembles from its inputs (spec/30_encoding.md R111): the period count, the bit value, the window
and its checksum, and the packing of an observation into one word (R107).
-/

namespace Sys2Proof.Machine

/-- `PERIODS(iv, bw)` (spec/41_signal_decoder.md R158), for every width: `half = bw >> 1`, `elapsed = (iv - half) mod 2^TW`,
`n = (elapsed div bw) + 1`, a natural number that is not truncated (decision D11). Its operand `bw` is not 0. -/
def periods {width : Nat} (iv bw : BitVec width) : Nat := (iv - (bw >>> 1)).toNat / bw.toNat + 1

/-- The bit value of a run that ends in an edge to level `newLevel` (R161): the level before the edge is the complement, and low is
logical 1. -/
def bitValue (newLevel : Level) : Bool := newLevel

/-- One bit shifted into the bottom of a byte; bit 7 of the old value is lost (R159). -/
def shiftIn (data : Byte) (b : Bool) : Byte := (data <<< 1) ||| (if b then 1#8 else 0#8)

/-- `min(acc.cnt + 1, 10)` (R159). DESIGN CHOICE: a count of 11 to 15 gives 10; in `Data` U10 refuses such a count or lets a model make
it unrepresentable. notes/assumptions/21.md -/
def countUp (cnt : BitVec 4) : BitVec 4 := BitVec.ofNat 4 (min (cnt.toNat + 1) 10)

/-- `(cur + k) mod 11` (spec/20_memory.md R71). -/
def ringIndex (cur : Fin 11) (k : Nat) : Fin 11 := ⟨(cur.val + k) % 11, Nat.mod_lt _ (by decide)⟩

/-- `win[k] = ring[(cur + k) mod 11]` (spec/10_state.md R41). -/
def State.win (s : State) (k : Nat) : Byte := s.ringRead (ringIndex s.cur k)

/-- `win[0] xor ... xor win[count - 1]`. -/
def State.winXor (s : State) : Nat → Byte
  | 0 => 0x00#8
  | count + 1 => s.winXor count ^^^ s.win count

/-- The checksum of the window: `win[0] xor ... xor win[9]` (spec/42_frame_sync.md R183). -/
def State.checksum (s : State) : Byte := s.winXor 10

/-- The observation word `{level, interval}` (R107): notation, not stored. -/
def Observation.word (o : Observation) : BitVec (1 + Config.timerWidth) :=
  (if o.level then 1#1 else 0#1) ++ o.interval

end Sys2Proof.Machine
end

