-- ==== Sys2Proof/Machine/Flags.lean ====
section
/-!
DEFINITION. The predicates of spec/10_state.md R53. They are computed and used inside one operation and never stored; the one flag
that is stored, `fault`, is set by `State.raiseCalibrationFault` only. No operation writes any other flag.
-/

namespace Sys2Proof.Machine

/-- `changed` (R34, R53): `obs` and `last` differ in a field. -/
def State.changed (s : State) : Bool := s.obs.level != s.last.level || s.obs.interval != s.last.interval

/-- `bz` (R53): `bw = 0`. -/
def State.bz (s : State) : Bool := s.bw == 0#16

/-- `hm` (R53): the window begins with the header. -/
def State.hm (s : State) : Bool := s.win 0 == Config.header0 && s.win 1 == Config.header1

/-- `cm` (R53, R183): the checksum of the window is its last byte. -/
def State.cm (s : State) : Bool := s.checksum == s.win 10

/-- `done` (R53): `acc.cnt = 9`. -/
def State.byteDone (s : State) : Bool := s.acc.cnt == 9#4

/-- `stop` (R53): `acc.cnt > 9`. -/
def State.stop (s : State) : Bool := 9 < s.acc.cnt.toNat

/-- One foreground step is one poll: `fault = 0` and `fg = Poll` (spec/41_signal_decoder.md R150). -/
def State.polls (s : State) : Bool := !s.fault && s.fg == fgPoll

/-- A changed poll in decoder state `st` whose observation has level `newLevel` (R150, R163). -/
def State.pollsIn (s : State) (st : BitVec 2) (newLevel : Level) : Bool :=
  s.polls && s.changed && s.st == st && s.obs.level == newLevel

end Sys2Proof.Machine
end

