-- ==== Sys2Proof/Machine/DisplayScanner.lean ====
section
/-!
DEFINITION. DisplayScanner (spec/43_display_scanner.md): the refresh tick and its four sub-steps.
-/

namespace Sys2Proof.Machine

/-- The row index as an index of `disp` (R72): 3 bits are 0..7. -/
def State.rowIndex (s : State) : Fin 8 := s.row.toFin

/-- `T.ADV` (R201): `row <- (row + 1) mod 8`. -/
def State.advanceRow (s : State) : State := s.setRow (s.row + 1#3)

/-- `T.BLANK` (R202): `ROWSEL <- 0x00`. -/
def State.blankRows (s : State) : State := s.setRowsel 0x00#8

/-- `T.COLS` (R203): `COL <- disp[row]`. -/
def State.driveColumns (s : State) : State := s.setCol (s.dispRead s.rowIndex)

/-- `T.SELECT` (R204): `ROWSEL <- 1 << row`. -/
def State.selectRow (s : State) : State := s.setRowsel (1#8 <<< s.row.toNat)

/-- `TICK` (R200): `T.ADV ; T.BLANK ; T.COLS ; T.SELECT`, whatever `fault` holds. -/
def execTick (s : State) : Outcome := .next s.advanceRow.blankRows.driveColumns.selectRow

/-- `T.ADV` (R201), alone. -/
def execTAdv (s : State) : Outcome := .next s.advanceRow
/-- `T.BLANK` (R202), alone. -/
def execTBlank (s : State) : Outcome := .next s.blankRows
/-- `T.COLS` (R203), alone. -/
def execTCols (s : State) : Outcome := .next s.driveColumns
/-- `T.SELECT` (R204), alone. -/
def execTSelect (s : State) : Outcome := .next s.selectRow

end Sys2Proof.Machine
end

