-- ==== Sys2Proof/Machine/EdgeCapture.lean ====
section
/-!
DEFINITION. EdgeCapture and the interval timer (spec/40_edge_capture.md).
-/

namespace Sys2Proof.Machine

/-- `TMR.INC` (R140): `tcnt <- (tcnt + 1) mod 2^TW`. Always enabled. -/
def execTmrInc (s : State) : Outcome := .next (s.setTcnt (s.tcnt + 1#16))

/-- The four writes of `CAP L` (R142), one atomic step; the interval is the timer's value before it is zeroed. -/
def State.capture (s : State) (newLevel : Level) : State :=
  ((s.setLine newLevel).setObs ⟨newLevel, s.tcnt⟩).setTcnt 0#16

/-- `CAP L` (R142): enabled when the line changes, `L != line`, whatever `fault` holds. -/
def execCap (newLevel : Level) (s : State) : Outcome :=
  if newLevel != s.line then .next (s.capture newLevel) else .refused .noTransition

end Sys2Proof.Machine
end

