-- ==== Sys2Proof/Machine/FrameSync.lean ====
section
/-!
DEFINITION. FrameSync (spec/42_frame_sync.md): append, scan, copy-out, clear.
-/

namespace Sys2Proof.Machine

/-- The effect of `SCAN.ACCEPT`: `fg <- Copy(0)`, nothing else (R185). -/
def State.acceptFrame (s : State) : State := s.setFg fgCopy0

/-- The scan that `APPEND` invokes (R180 to R185): exactly one of `SCAN.NOHDR`, `SCAN.BADSUM` (no write) and `SCAN.ACCEPT`. -/
def State.scan (s : State) : State :=
  if s.hm then (if s.cm then s.acceptFrame else s) else s

/-- `APPEND v` (R181): write the oldest cell, advance the cursor modulo 11, scan the window of the new cursor. -/
def State.appendByte (s : State) (v : Byte) : State :=
  ((s.ringWrite s.cur v).setCur (ringIndex s.cur 1)).scan

/-- `COPY i` (R186): `disp[i] <- win[2 + i]`, `fg <- fg + 1`. -/
def State.copyRow (s : State) (i : Fin 8) : State :=
  (s.dispWrite i (s.win (2 + i.val))).setFg (s.fg + 1#4)

/-- The condition of `COPY i`: `fault = 0` and `fg = i + 1` (R186). -/
def State.copies (s : State) (i : Fin 8) : Bool := !s.fault && s.fg == BitVec.ofNat 4 (i.val + 1)

/-- `CLEAR` (R187): all 11 ring cells 0x00, `fg <- Poll`; `cur` is kept. -/
def State.clearRing (s : State) : State := (s.setRing (s.ring.zeroCells Config.ringLen)).setFg fgPoll

/-- `APPEND` (R181), alone: its operand is `acc.data`. -/
def execAppend (s : State) : Outcome := .next (s.appendByte s.acc.data)

/-- `SCAN.NOHDR` (R182): `hm = 0`; no write. -/
def execScanNohdr (s : State) : Outcome := runWhen (!s.hm) .scanNohdr s

/-- `SCAN.BADSUM` (R184): `hm = 1`, `cm = 0`; no write. -/
def execScanBadsum (s : State) : Outcome := runWhen (s.hm && !s.cm) .scanBadsum s

/-- `SCAN.ACCEPT` (R185): `hm = 1`, `cm = 1`. -/
def execScanAccept (s : State) : Outcome := runWhen (s.hm && s.cm) .scanAccept s.acceptFrame

/-- `COPY.0` (R186). -/
def execCopy0 (s : State) : Outcome := runWhen (s.copies 0) .copy0 (s.copyRow 0)
/-- `COPY.1` (R186). -/
def execCopy1 (s : State) : Outcome := runWhen (s.copies 1) .copy1 (s.copyRow 1)
/-- `COPY.2` (R186). -/
def execCopy2 (s : State) : Outcome := runWhen (s.copies 2) .copy2 (s.copyRow 2)
/-- `COPY.3` (R186). -/
def execCopy3 (s : State) : Outcome := runWhen (s.copies 3) .copy3 (s.copyRow 3)
/-- `COPY.4` (R186). -/
def execCopy4 (s : State) : Outcome := runWhen (s.copies 4) .copy4 (s.copyRow 4)
/-- `COPY.5` (R186). -/
def execCopy5 (s : State) : Outcome := runWhen (s.copies 5) .copy5 (s.copyRow 5)
/-- `COPY.6` (R186). -/
def execCopy6 (s : State) : Outcome := runWhen (s.copies 6) .copy6 (s.copyRow 6)
/-- `COPY.7` (R186). -/
def execCopy7 (s : State) : Outcome := runWhen (s.copies 7) .copy7 (s.copyRow 7)

/-- `CLEAR` (R187): `fault = 0` and `fg = 9`. -/
def execClear (s : State) : Outcome := runWhen (!s.fault && s.fg == fgClear) .clear s.clearRing

end Sys2Proof.Machine
end

