-- ==== Sys2Proof/Machine/SignalDecoder.lean ====
section
/-!
DEFINITION. SignalDecoder (spec/41_signal_decoder.md): the poll, the three decoder states, the period count, the shifts, and the
foreground after the fault.
-/

namespace Sys2Proof.Machine

/-- `SHIFT b` (R159): shift one bit in, count it up to 10, and append the byte when the count becomes 9. That it runs at a count
of 11 to 15 is the model's choice (U10; notes/assumptions/21.md). -/
def State.shiftBit (s : State) (b : Bool) : State :=
  let t := s.setAcc ⟨shiftIn s.acc.data b, countUp s.acc.cnt⟩
  if t.byteDone then t.appendByte t.acc.data else t

/-- The loop of `DATA.EDGE` (R157): `n` times `SHIFT b`, left as soon as `acc.cnt > 9` after a shift. -/
def State.shiftLoop (b : Bool) : Nat → State → State
  | 0, s => s
  | n + 1, s => let t := s.shiftBit b; if t.stop then t else State.shiftLoop b n t

/-- `DATA.EDGE` (R157): `last <- o`, the period count, the loop, the stop test. The observation `o` is read once (R150). -/
def State.dataEdge (s : State) : State :=
  let o := s.obs
  let t := State.shiftLoop (bitValue o.level) (periods o.interval s.bw) s.sawObs
  if t.stop && o.level then t.setSt stIdle else t

/-- `HALT` (R160): the foreground after the fault has no step of its own; the other agents go on (R221), so the machine does too,
with nothing changed. notes/assumptions/8.md -/
def execHalt (s : State) : Outcome := runWhen s.fault .halt s

/-- `POLL.NOP` (R151): the observation has not changed; no write at all. -/
def execPollNop (s : State) : Outcome := runWhen (s.polls && !s.changed) .pollNop s

/-- `IDLE.FALL` (R152): `last <- o ; st <- Start`. -/
def execIdleFall (s : State) : Outcome := runWhen (s.pollsIn stIdle false) .idleFall (s.sawObs.setSt stStart)

/-- `IDLE.RISE` (R153): `last <- o`. -/
def execIdleRise (s : State) : Outcome := runWhen (s.pollsIn stIdle true) .idleRise s.sawObs

/-- `START.FALL` (R155): `last <- o`. -/
def execStartFall (s : State) : Outcome := runWhen (s.pollsIn stStart false) .startFall s.sawObs

/-- `START.RISE` (R154): `last <- o`, `bw <- iv`, `acc <- (0, 0)`, `st <- Data`; no check on `iv`. -/
def execStartRise (s : State) : Outcome :=
  runWhen (s.pollsIn stStart true) .startRise
    (((s.sawObs.setBw s.obs.interval).setAcc ⟨0x00#8, 0#4⟩).setSt stData)

/-- `DATA.EDGE L` (R157): a changed poll in `Data` with `bw != 0`. -/
def execDataEdge (newLevel : Level) (s : State) : Outcome :=
  runWhen (s.pollsIn stData newLevel && !s.bz) (.dataEdge newLevel) s.dataEdge

/-- `DATA.FAULT` (R156): a changed poll in `Data` with `bw = 0`; `last <- o ; raise CalibrationFault`, no other write.
notes/assumptions/16.md -/
def execDataFault (s : State) : Outcome :=
  runWhen (s.pollsIn stData s.obs.level && s.bz) .dataFault s.sawObs.raiseCalibrationFault

/-- `PERIODS` (R158), alone: "It writes no state"; the count is `periods s.obs.interval s.bw` (R111), which `DATA.EDGE` uses. With
`bw = 0` the division is undefined and no quotient is formed (R156, U1). notes/assumptions/9.md -/
def execPeriods (s : State) : Outcome := if s.bz then .fault .zeroBitWidth else .next s

/-- `SHIFT b` (R159), alone. -/
def execShift (bit : Bool) (s : State) : Outcome := .next (s.shiftBit bit)

end Sys2Proof.Machine
end

