-- ==== Sys2Proof/Machine/Dispatch.lean ====
section
/-!
DEFINITION. The meaning of every operation, one arm for each constructor of Instr.
-/

namespace Sys2Proof.Machine

def exec (i : Instr) (s : State) : Host.Outcome State Fault Refusal :=
  match i with
  | .tmrInc => Sys2Proof.Machine.execTmrInc s
  | .cap newLevel => Sys2Proof.Machine.execCap newLevel s
  | .halt => Sys2Proof.Machine.execHalt s
  | .pollNop => Sys2Proof.Machine.execPollNop s
  | .idleFall => Sys2Proof.Machine.execIdleFall s
  | .idleRise => Sys2Proof.Machine.execIdleRise s
  | .startFall => Sys2Proof.Machine.execStartFall s
  | .startRise => Sys2Proof.Machine.execStartRise s
  | .dataEdge newLevel => Sys2Proof.Machine.execDataEdge newLevel s
  | .dataFault => Sys2Proof.Machine.execDataFault s
  | .copy0 => Sys2Proof.Machine.execCopy0 s
  | .copy1 => Sys2Proof.Machine.execCopy1 s
  | .copy2 => Sys2Proof.Machine.execCopy2 s
  | .copy3 => Sys2Proof.Machine.execCopy3 s
  | .copy4 => Sys2Proof.Machine.execCopy4 s
  | .copy5 => Sys2Proof.Machine.execCopy5 s
  | .copy6 => Sys2Proof.Machine.execCopy6 s
  | .copy7 => Sys2Proof.Machine.execCopy7 s
  | .clear => Sys2Proof.Machine.execClear s
  | .tick => Sys2Proof.Machine.execTick s
  | .periods => Sys2Proof.Machine.execPeriods s
  | .shift bit => Sys2Proof.Machine.execShift bit s
  | .append => Sys2Proof.Machine.execAppend s
  | .scanNohdr => Sys2Proof.Machine.execScanNohdr s
  | .scanBadsum => Sys2Proof.Machine.execScanBadsum s
  | .scanAccept => Sys2Proof.Machine.execScanAccept s
  | .tAdv => Sys2Proof.Machine.execTAdv s
  | .tBlank => Sys2Proof.Machine.execTBlank s
  | .tCols => Sys2Proof.Machine.execTCols s
  | .tSelect => Sys2Proof.Machine.execTSelect s

end Sys2Proof.Machine
end

