-- ==== Sys2Proof/WellFormed.lean ====
section
/-!
DEFINITION. What the spec asks of the things that come from outside the operations' own rules: a selector word
(spec/30_encoding.md R112, R114, R116) and a stimulus (R120; spec/93_implementation_defined.md U11). An operation itself has only
one-bit operands, and the spec gives each of them both values.
-/

namespace Sys2Proof

/-- Every term is a well-formed operation: an operand is a single bit, and the table admits both values of it (R113, R115). -/
def Instr.wellFormed (_ : Instr) : Bool := true

/-- `AG`, bits 11:10 of a top-level selector (R112). -/
abbrev selAG (w : BitVec 12) : BitVec 2 := w.extractLsb' 10 2
/-- `PH`, bits 9:6 (R112). -/
abbrev selPH (w : BitVec 12) : BitVec 4 := w.extractLsb' 6 4
/-- `ST`, bits 5:4 (R112). -/
abbrev selST (w : BitVec 12) : BitVec 2 := w.extractLsb' 4 2
/-- `CH`, bit 3 (R112). -/
abbrev selCH (w : BitVec 12) : Bool := w.getLsbD 3
/-- `LV`, bit 2 (R112). -/
abbrev selLV (w : BitVec 12) : Bool := w.getLsbD 2
/-- `BZ`, bit 1 (R112). -/
abbrev selBZ (w : BitVec 12) : Bool := w.getLsbD 1
/-- `FL`, bit 0 (R112). -/
abbrev selFL (w : BitVec 12) : Bool := w.getLsbD 0

/-- `ID`, bits 7:4 of a sub-operation selector (R114). -/
abbrev subID (w : BitVec 8) : BitVec 4 := w.extractLsb' 4 4
/-- Bits 3:2, zero (R114). -/
abbrev subZero (w : BitVec 8) : BitVec 2 := w.extractLsb' 2 2
/-- `HM`, bit 1 (R114). -/
abbrev subHM (w : BitVec 8) : Bool := w.getLsbD 1
/-- `CM` or `b`, bit 0 (R114). -/
abbrev subCM (w : BitVec 8) : Bool := w.getLsbD 0

/-- The foreground polls: `AG = 2` and `PH = 0`. -/
def selPolls (w : BitVec 12) : Bool := selAG w == 2#2 && selPH w == 0#4

/-- R112's "otherwise 0": a field that the acting agent does not use is 0. -/
def topFieldsClear (w : BitVec 12) : Bool :=
  (selAG w == 2#2 || selPH w == 0#4) &&
  (selPolls w || (selST w == 0#2 && !selCH w)) &&
  (selAG w == 1#2 || (selPolls w && selCH w) || !selLV w) &&
  ((selPolls w && selCH w && selST w == 2#2) || !selBZ w)

/-- R116: the top-level selectors that match no row. -/
def topUnlisted (w : BitVec 12) : Bool :=
  selAG w == 2#2 && !selFL w && ((selPH w == 0#4 && selCH w && selST w == 3#2) || 10 ≤ (selPH w).toNat)

/-- R116: the sub-operation selectors that match no row: `ID` 0 or 9..15, bits 3:2 nonzero, `HM` or `CM` set where the table has
0. -/
def subUnlisted (w : BitVec 8) : Bool :=
  subID w == 0#4 || 9 ≤ (subID w).toNat || subZero w != 0#2 ||
  (subHM w && subID w != 4#4) || (subCM w && subID w != 4#4 && subID w != 2#4)

/-- A selector word that an agent of the block can be about to run: unused fields 0 (R112, R114) and a row to match (R116). -/
def SelWord.wellFormed : SelWord → Bool
  | .top w => topFieldsClear w && !topUnlisted w
  | .sub w => !subUnlisted w

/-- A stimulus is well formed, from a line at level `line`, when every `CAP L` has `L != line` (R120, R142, U11). -/
def stimulusWellFormed (line : Level) : List Trigger → Bool
  | [] => true
  | .lineTransition l :: rest => (l != line) && stimulusWellFormed l rest
  | .timerTick :: rest => stimulusWellFormed line rest
  | .foreground :: rest => stimulusWellFormed line rest
  | .refreshTick :: rest => stimulusWellFormed line rest

end Sys2Proof
end

