-- ==== Sys2Proof/Decode.lean ====
section
/-!
DEFINITION. The decoder of selector words, from the tables of spec/30_encoding.md R113 and R115, and the encoder. No selector word
is stored by the hardware or stands on a wire (R112): a word is computed at the moment an agent acts (Machine/Select.lean) and read
here. The layout in bytes serves the host's interface only: notes/assumptions/14.md.
-/

namespace Sys2Proof

/-- Why a word is no operation. -/
inductive DecodeError where
  /-- A 12-bit selector that matches no row of R113 (R116). -/
  | noTopRow
  /-- An 8-bit selector that matches no row of R115 (R116). -/
  | noSubRow
  /-- Bytes that are neither one byte nor two bytes holding 12 bits. -/
  | noSelector
deriving DecidableEq, Repr

/-- A row of a selector table: `w` is of the row when its bits under `mask` are those of `value` (the columns "match" and "mask" of
spec/opcode_table.json); the operation is then `build w`. -/
structure SelRow (n : Nat) where
  mask : BitVec n
  value : BitVec n
  build : BitVec n → Instr

/-- Whether a word is of a row. -/
def SelRow.covers {n : Nat} (r : SelRow n) (w : BitVec n) : Bool := w &&& r.mask == r.value

/-- The rows of R113, in the order of the spec's table. The operand `L` is bit 2. -/
def topTable : List (SelRow 12) :=
  [ ⟨0xC00#12, 0x000#12, fun _ => .tmrInc⟩,
    ⟨0xC00#12, 0x400#12, fun w => .cap (selLV w)⟩,
    ⟨0xC01#12, 0x801#12, fun _ => .halt⟩,
    ⟨0xFC9#12, 0x800#12, fun _ => .pollNop⟩,
    ⟨0xFFD#12, 0x808#12, fun _ => .idleFall⟩,
    ⟨0xFFD#12, 0x80C#12, fun _ => .idleRise⟩,
    ⟨0xFFD#12, 0x818#12, fun _ => .startFall⟩,
    ⟨0xFFD#12, 0x81C#12, fun _ => .startRise⟩,
    ⟨0xFFB#12, 0x828#12, fun w => .dataEdge (selLV w)⟩,
    ⟨0xFFB#12, 0x82A#12, fun _ => .dataFault⟩,
    ⟨0xFC1#12, 0x840#12, fun _ => .copy0⟩,
    ⟨0xFC1#12, 0x880#12, fun _ => .copy1⟩,
    ⟨0xFC1#12, 0x8C0#12, fun _ => .copy2⟩,
    ⟨0xFC1#12, 0x900#12, fun _ => .copy3⟩,
    ⟨0xFC1#12, 0x940#12, fun _ => .copy4⟩,
    ⟨0xFC1#12, 0x980#12, fun _ => .copy5⟩,
    ⟨0xFC1#12, 0x9C0#12, fun _ => .copy6⟩,
    ⟨0xFC1#12, 0xA00#12, fun _ => .copy7⟩,
    ⟨0xFC1#12, 0xA40#12, fun _ => .clear⟩,
    ⟨0xC00#12, 0xC00#12, fun _ => .tick⟩ ]

/-- The rows of R115, in the order of the spec's table. The operand `b` is bit 0. -/
def subTable : List (SelRow 8) :=
  [ ⟨0xFF#8, 0x10#8, fun _ => .periods⟩,
    ⟨0xFE#8, 0x20#8, fun w => .shift (subCM w)⟩,
    ⟨0xFF#8, 0x30#8, fun _ => .append⟩,
    ⟨0xFE#8, 0x40#8, fun _ => .scanNohdr⟩,
    ⟨0xFF#8, 0x42#8, fun _ => .scanBadsum⟩,
    ⟨0xFF#8, 0x43#8, fun _ => .scanAccept⟩,
    ⟨0xFF#8, 0x50#8, fun _ => .tAdv⟩,
    ⟨0xFF#8, 0x60#8, fun _ => .tBlank⟩,
    ⟨0xFF#8, 0x70#8, fun _ => .tCols⟩,
    ⟨0xFF#8, 0x80#8, fun _ => .tSelect⟩ ]

/-- The first row of a table that covers a word, applied to it. -/
def lookup {n : Nat} (w : BitVec n) : List (SelRow n) → Option Instr
  | [] => none
  | r :: rest => if r.covers w then some (r.build w) else lookup w rest

/-- The operation a top-level selector names (R113). -/
def decodeTop (w : BitVec 12) : Except DecodeError Instr :=
  match lookup w topTable with
  | some i => .ok i
  | none => .error .noTopRow

/-- The operation a sub-operation selector names (R115). -/
def decodeSub (w : BitVec 8) : Except DecodeError Instr :=
  match lookup w subTable with
  | some i => .ok i
  | none => .error .noSubRow

/-- The operation a selector word names. -/
def decode : SelWord → Except DecodeError Instr
  | .top w => decodeTop w
  | .sub w => decodeSub w

/-- A selector laid out in bytes: one byte is an 8-bit selector; two bytes, the low one first, are a 12-bit selector whose four bits
above the twelfth are 0. -/
def selWordOfBytes : List Byte → Option SelWord
  | [b] => some (.sub b)
  | [lo, hi] => if hi.extractLsb' 4 4 == 0#4 then some (.top (hi.extractLsb' 0 4 ++ lo)) else none
  | _ => none

/-- The decoder, total on any bytes. -/
def decodeBytes (bs : List Byte) : Except DecodeError Instr :=
  match selWordOfBytes bs with
  | some w => decode w
  | none => .error .noSelector

/-- The low `count` bytes of a number, lowest first. -/
def lowBytes (w : Nat) : Nat → List Byte
  | 0 => []
  | count + 1 => BitVec.ofNat 8 w :: lowBytes (w >>> 8) count

/-- The instruction this decoder reads from a table word of `nbits` bits: one byte for a `SUB` row, two for a `TOP` row. -/
def decodeTableWord (nbits w : Nat) : Option Instr :=
  match decodeBytes (lowBytes w ((nbits + 7) / 8)) with
  | .ok i => some i
  | .error _ => none

/-- The bit `L` or `b` of a selector, in place `k`. -/
def bitAt (n k : Nat) (b : Bool) : BitVec n := if b then 1#n <<< k else 0#n

/-- The selector word of an operation: the pattern of its row (R113, R115) with its operand bit in place and every bit the row
ignores 0. -/
def encode : Instr → SelWord
  | .tmrInc => .top 0b00_0000_00_0_0_0_0#12
  | .cap l => .top (0b01_0000_00_0_0_0_0#12 ||| bitAt 12 2 l)
  | .halt => .top 0b10_0000_00_0_0_0_1#12
  | .pollNop => .top 0b10_0000_00_0_0_0_0#12
  | .idleFall => .top 0b10_0000_00_1_0_0_0#12
  | .idleRise => .top 0b10_0000_00_1_1_0_0#12
  | .startFall => .top 0b10_0000_01_1_0_0_0#12
  | .startRise => .top 0b10_0000_01_1_1_0_0#12
  | .dataEdge l => .top (0b10_0000_10_1_0_0_0#12 ||| bitAt 12 2 l)
  | .dataFault => .top 0b10_0000_10_1_0_1_0#12
  | .copy0 => .top 0b10_0001_00_0_0_0_0#12
  | .copy1 => .top 0b10_0010_00_0_0_0_0#12
  | .copy2 => .top 0b10_0011_00_0_0_0_0#12
  | .copy3 => .top 0b10_0100_00_0_0_0_0#12
  | .copy4 => .top 0b10_0101_00_0_0_0_0#12
  | .copy5 => .top 0b10_0110_00_0_0_0_0#12
  | .copy6 => .top 0b10_0111_00_0_0_0_0#12
  | .copy7 => .top 0b10_1000_00_0_0_0_0#12
  | .clear => .top 0b10_1001_00_0_0_0_0#12
  | .tick => .top 0b11_0000_00_0_0_0_0#12
  | .periods => .sub 0b0001_00_0_0#8
  | .shift b => .sub (0b0010_00_0_0#8 ||| bitAt 8 0 b)
  | .append => .sub 0b0011_00_0_0#8
  | .scanNohdr => .sub 0b0100_00_0_0#8
  | .scanBadsum => .sub 0b0100_00_1_0#8
  | .scanAccept => .sub 0b0100_00_1_1#8
  | .tAdv => .sub 0b0101_00_0_0#8
  | .tBlank => .sub 0b0110_00_0_0#8
  | .tCols => .sub 0b0111_00_0_0#8
  | .tSelect => .sub 0b1000_00_0_0#8

/-- The bits of a selector that an operation's row looks at, its operand bit among them: the digits `0`, `1`, `l`, `b` of the
patterns of R113 and R115 as 1, the digit `x` as 0. -/
def careMask : Instr → SelWord
  | .tmrInc => .top 0b11_0000_00_0_0_0_0#12
  | .cap _ => .top 0b11_0000_00_0_1_0_0#12
  | .halt => .top 0b11_0000_00_0_0_0_1#12
  | .pollNop => .top 0b11_1111_00_1_0_0_1#12
  | .idleFall => .top 0b11_1111_11_1_1_0_1#12
  | .idleRise => .top 0b11_1111_11_1_1_0_1#12
  | .startFall => .top 0b11_1111_11_1_1_0_1#12
  | .startRise => .top 0b11_1111_11_1_1_0_1#12
  | .dataEdge _ => .top 0b11_1111_11_1_1_1_1#12
  | .dataFault => .top 0b11_1111_11_1_0_1_1#12
  | .copy0 => .top 0b11_1111_00_0_0_0_1#12
  | .copy1 => .top 0b11_1111_00_0_0_0_1#12
  | .copy2 => .top 0b11_1111_00_0_0_0_1#12
  | .copy3 => .top 0b11_1111_00_0_0_0_1#12
  | .copy4 => .top 0b11_1111_00_0_0_0_1#12
  | .copy5 => .top 0b11_1111_00_0_0_0_1#12
  | .copy6 => .top 0b11_1111_00_0_0_0_1#12
  | .copy7 => .top 0b11_1111_00_0_0_0_1#12
  | .clear => .top 0b11_1111_00_0_0_0_1#12
  | .tick => .top 0b11_0000_00_0_0_0_0#12
  | .periods => .sub 0b1111_11_1_1#8
  | .shift _ => .sub 0b1111_11_1_1#8
  | .append => .sub 0b1111_11_1_1#8
  | .scanNohdr => .sub 0b1111_11_1_0#8
  | .scanBadsum => .sub 0b1111_11_1_1#8
  | .scanAccept => .sub 0b1111_11_1_1#8
  | .tAdv => .sub 0b1111_11_1_1#8
  | .tBlank => .sub 0b1111_11_1_1#8
  | .tCols => .sub 0b1111_11_1_1#8
  | .tSelect => .sub 0b1111_11_1_1#8

/-- A word has the pattern of an operation: its bits are the encoding's wherever the row looks. -/
def matchesPattern (w : SelWord) (i : Instr) : Bool :=
  match w, careMask i, encode i with
  | .top w, .top m, .top e => w &&& m == e
  | .sub w, .sub m, .sub e => w &&& m == e
  | _, _, _ => false

/-- How many bits the table gives a word's row, in whole bytes. -/
def SelWord.tableBits : SelWord → Nat
  | .top _ => 16
  | .sub _ => 8

/-- A word as the number the table writes it with. -/
def SelWord.toNat : SelWord → Nat
  | .top w => w.toNat
  | .sub w => w.toNat

end Sys2Proof
end

