-- ==== Sys2Proof/Machine/Select.lean ====
section
/-!
DEFINITION. How the next operation is found. The block fetches no instruction (spec/20_memory.md R91): a trigger makes an agent act,
and the selector word computed from the trigger and the state names its operation (spec/30_encoding.md R112, R119).
-/

namespace Sys2Proof.Machine

/-- `AG` of R112. -/
def agentCode : Trigger → BitVec 2
  | .timerTick => 0#2
  | .lineTransition _ => 1#2
  | .foreground => 2#2
  | .refreshTick => 3#2

/-- The fields of R112, `AG` in the upper bits. -/
def packSelector (ag : BitVec 2) (ph : BitVec 4) (st : BitVec 2) (ch lv bz fl : Bool) : BitVec 12 :=
  ag ++ ph ++ st ++ BitVec.ofBool ch ++ BitVec.ofBool lv ++ BitVec.ofBool bz ++ BitVec.ofBool fl

/-- The top-level selector `sel` (R112): a field that its row of R112 does not give to the acting agent is 0. -/
def selector (t : Trigger) (s : State) : BitVec 12 :=
  match t with
  | .timerTick => packSelector (agentCode t) 0#4 0#2 false false false s.fault
  | .lineTransition l => packSelector (agentCode t) 0#4 0#2 false l false s.fault
  | .refreshTick => packSelector (agentCode t) 0#4 0#2 false false false s.fault
  | .foreground =>
    if s.fg = fgPoll then
      packSelector (agentCode t) s.fg s.st s.changed (s.changed && s.obs.level) (s.changed && s.st == stData && s.bz) s.fault
    else packSelector (agentCode t) s.fg 0#2 false false false s.fault

/-- The trigger that acts next and the state it acts in. With no trigger left the foreground acts: it needs none (R14, "the
foreground loop is a tight spin", R236). notes/assumptions/5.md -/
def nextTrigger (s : State) : Trigger × State :=
  match s.schedule with
  | [] => (.foreground, s)
  | t :: rest => (t, s.setSchedule rest)

/-- The next operation and the state it runs in, or why there is none: the bring-up is not in place (R50, U12), or the selector
matches no row (R116). -/
def fetch (s : State) : Except Refusal (Instr × State) :=
  if s.cfg = BringUp.complete then
    match s.subSel with
    | some w =>
      match decodeSub w with
      | .ok i => .ok (i, s.setSubSel none)
      | .error _ => .error (.noSubRow w)
    | none =>
      let (t, s') := nextTrigger s
      match decodeTop (selector t s') with
      | .ok i => .ok (i, s')
      | .error _ => .error (.noTopRow (selector t s'))
  else .error .bringUpIncomplete

/-- The decoder's side of a foreground selector: the state in which a poll computes the fields `ST`, `CH`, `LV`, `BZ` of `w`. -/
def State.placePoll (s : State) (w : BitVec 12) : State :=
  let s := s.setSt (selST w)
  if selCH w then
    let s := (s.setObs ⟨selLV w, s.obs.interval⟩).setLast ⟨!selLV w, s.last.interval⟩
    if selST w = stData then (if selBZ w then s.setBw 0#16 else if s.bz then s.setBw 1#16 else s) else s
  else s.sawObs

/-- The state in which the next trigger's selector is of the row of `w`: the trigger that `AG` names comes next, and the cells the
row looks at have the values it looks for. Everything else is kept. notes/assumptions/15.md -/
def State.placeTop (s : State) (w : BitVec 12) : State :=
  let s := (s.setCfg BringUp.complete).setSubSel none
  if selAG w = 0#2 then s.setSchedule (.timerTick :: s.schedule)
  else if selAG w = 1#2 then (s.setLine (!selLV w)).setSchedule (.lineTransition (selLV w) :: s.schedule)
  else if selAG w = 3#2 then s.setSchedule (.refreshTick :: s.schedule)
  else
    let s := s.setSchedule (.foreground :: s.schedule)
    if selFL w then s.setFault true
    else
      let s := (s.setFault false).setFg (selPH w)
      if selPH w = fgPoll then s.placePoll w else s

/-- The window's side of a `SCAN` selector: the ring in which `hm` and `cm` are its bits `HM` and `CM`. -/
def State.placeScan (s : State) (w : BitVec 8) : State :=
  if subHM w then
    let s := (s.ringWrite (ringIndex s.cur 0) Config.header0).ringWrite (ringIndex s.cur 1) Config.header1
    if s.cm = subCM w then s
    else s.ringWrite (ringIndex s.cur 10) (if subCM w then s.checksum else s.checksum ^^^ 1#8)
  else if s.hm then s.ringWrite (ringIndex s.cur 0) 0x00#8
  else s

/-- The state in which the sub-operation selector `w` is presented alone, its operands such that its condition holds.
notes/assumptions/15.md -/
def State.placeSub (s : State) (w : BitVec 8) : State :=
  let s := (s.setCfg BringUp.complete).setSubSel (some w)
  if subID w = 1#4 then (if s.bz then s.setBw 1#16 else s)
  else if subID w = 4#4 then s.placeScan w
  else s

/-- A table word of `nbits` bits placed: a `SUB` word has one byte, a `TOP` word two. -/
def State.placeWord (s : State) (nbits w : Nat) : State :=
  if nbits ≤ 8 then s.placeSub (BitVec.ofNat 8 w) else s.placeTop (BitVec.ofNat 12 w)

end Sys2Proof.Machine
end

