-- ==== Sys2Proof/Machine/Step.lean ====
section
/-!
DEFINITION. One step of the machine: one atomic operation of one agent (spec/00_scope.md R13, spec/20_memory.md R84).
-/

namespace Sys2Proof.Machine

/-- Find the next operation, run it. -/
def step (s : State) : Host.Outcome State Fault Refusal :=
  match fetch s with
  | .ok (i, s') => exec i s'
  | .error r => .refused r

/-- `s` with a table word where `step` finds its next operation. notes/assumptions/15.md -/
def State.withFetchWord (s : State) (nbits w : Nat) : State := s.placeWord nbits w

end Sys2Proof.Machine
end

