-- ==== Sys2Proof/Machine/Outputs.lean ====
section
/-!
DEFINITION. What the outside sees of the outputs: the output trace inside one tick (spec/43_display_scanner.md R205), and the
physical lines behind the open parameters `RowMap`, `ROW_ACTIVE` and `COL_ACTIVE` (spec/00_scope.md R8, decisions D23, D24), which
are arguments here. No operation reads any of this.
-/

namespace Sys2Proof.Machine

/-- The two "physically distinct groups of select lines" (R204). -/
inductive SelectGroup where
  | first
  | second
deriving DecidableEq, Repr

/-- A physical row-select line, {group, bit} (R204). -/
structure SelectLine where
  group : SelectGroup
  bit : Nat
deriving DecidableEq, Repr

/-- The wiring: `RowMap`, `ROW_ACTIVE`, `COL_ACTIVE` (R8). -/
structure Wiring where
  /-- `RowMap(r)`; the spec asks that it be injective. -/
  rowMap : Fin 8 → SelectLine
  /-- The electrical level of an asserted row-select line. -/
  rowActive : Level
  /-- The electrical level of a lit column line. -/
  colActive : Level

/-- `RowMap` is injective (R204). -/
def Wiring.injective (w : Wiring) : Prop := ∀ r r' : Fin 8, w.rowMap r = w.rowMap r' → r = r'

/-- The physical line is the line of an asserted row (R45). -/
def Wiring.asserts (w : Wiring) (s : State) (l : SelectLine) : Bool :=
  (List.ofFn fun r : Fin 8 => decide (w.rowMap r = l) && s.rowsel.getLsbD r.val).any id

/-- The electrical level of a physical row-select line (R45, decision D23). -/
def Wiring.rowLevel (w : Wiring) (s : State) (l : SelectLine) : Level :=
  if w.asserts s l then w.rowActive else !w.rowActive

/-- The electrical level of column line `j` (R44, decision D23). -/
def Wiring.colLevel (w : Wiring) (s : State) (j : Fin 8) : Level :=
  if s.col.getLsbD j.val then w.colActive else !w.colActive

/-- Column `j` of row `r` is lit at this moment. -/
def State.lit (s : State) (r j : Fin 8) : Bool := s.rowsel.getLsbD r.val && s.col.getLsbD j.val

/-- The pair `(ROWSEL, COL)`. -/
def State.outputs (s : State) : Byte × Byte := (s.rowsel, s.col)

/-- The values `(ROWSEL, COL)` takes in one tick, in order (R205): before, after `T.BLANK`, after `T.COLS`, after `T.SELECT`. -/
def State.tickTrace (s : State) : List (Byte × Byte) :=
  let a := s.advanceRow
  [s.outputs, a.blankRows.outputs, a.blankRows.driveColumns.outputs, a.blankRows.driveColumns.selectRow.outputs]

end Sys2Proof.Machine
end

