-- ==== Sys2Proof/Machine/Stimulus.lean ====
section
/-!
DEFINITION. The signal the block accepts and the notation for it (spec/30_encoding.md): the levels and the edges of a byte on the
wire (R101, R106), the frame and its checksum (R108, R109), and the programs of R120 and R121 with what running one does. None of it
is part of the block; the transmitter is out of scope (spec/00_scope.md R6) and only its signal is given.
-/

namespace Sys2Proof.Machine

/-- `1 - d[7], 1 - d[6], ..., 1 - d[8 - count]`: the levels of the data periods, most significant bit first, low for 1 (R104,
R106). -/
def dataLevels (d : Byte) : Nat → List Level
  | 0 => []
  | count + 1 => dataLevels d count ++ [!d.getLsbD (7 - count)]

/-- `p[1 .. 10 + S]` of R106: the framing bit, the eight data periods, `S` stop periods, idle. -/
def levelsAfterStart (d : Byte) (stops : Nat) : List Level :=
  [true] ++ dataLevels d 8 ++ List.replicate stops false ++ [true]

/-- The edges of a sequence of periods (R106): `run` periods of level `level` have passed since the last edge. -/
def edgesOf (width : Nat) (level : Level) (run : Nat) : List Level → List (Level × Nat)
  | [] => []
  | p :: rest => if p = level then edgesOf width level (run + 1) rest else (p, width * run) :: edgesOf width p 1 rest

/-- `TX(d, W, S, G)` (R106): the edges of the byte `d` at bit width `W`, with `S` stop periods, after an idle gap of `G` ticks. -/
def tx (d : Byte) (width stops gap : Nat) : List (Level × Nat) :=
  (false, gap) :: edgesOf width false 1 (levelsAfterStart d stops)

/-- `TMR n` (R120). -/
def tmr (n : Nat) : List Trigger := List.replicate n .timerTick

/-- `EDGE L, t` (R121). -/
def edge (l : Level) (t : Nat) : List Trigger := tmr t ++ [.lineTransition l]

/-- `TICKS n` (R121). -/
def ticks (n : Nat) : List Trigger := List.replicate n .refreshTick

/-- The block from `s` under a list of triggers: one step for each, in order (R120, spec/20_memory.md R84). -/
def afterStimulus (stimulus : List Trigger) (s : State) : Outcome :=
  Host.Core.run Sys2Proof.core stimulus.length (s.setSchedule stimulus)

/-- A statement of a program (R120, R121): one whose operations are a fixed list of triggers (`TMR`, `CAP`, `FG`, `TICK`, `EDGE`,
`TICKS`), or `RUN`, whose number of `FG` depends on the state it starts in. -/
inductive Statement where
  | send (triggers : List Trigger)
  | run
deriving DecidableEq, Repr

/-- The operations that end `RUN` (R121). -/
def endsRun (i : Instr) : Bool := i == .pollNop || i == .halt

/-- How many `FG` the loop of `RUN` runs from `s`, the one that ends it counted, if at most `fuel`. An `FG` that stops is the last. -/
def runCount : Nat → State → Nat
  | 0, _ => 0
  | fuel + 1, s =>
    match decodeTop (selector .foreground s) with
    | .error _ => 1
    | .ok i =>
      if endsRun i then 1
      else match exec i s with
        | .next t => runCount fuel t + 1
        | .fault _ => 1
        | .refused _ => 1

/-- No `RUN` is longer, from any state: one poll, the nine operations of an accepted frame, and the `POLL.NOP` that ends it. The bound
makes the count a total function and cuts nothing off. notes/assumptions/20.md -/
abbrev runBound : Nat := 11

/-- The triggers a statement stands for in a state: the expansions of R121. -/
def Statement.triggers (p : Statement) (s : State) : List Trigger :=
  match p with
  | .send ts => ts
  | .run => List.replicate (runCount runBound s) .foreground

/-- A program run from a start state: its statements in order (R120). -/
def runProgram : List Statement → State → Outcome
  | [], s => .next s
  | p :: rest, s =>
    match afterStimulus (p.triggers s) s with
    | .next t => runProgram rest t
    | .fault r => .fault r
    | .refused r => .refused r

/-- `EP L, t` (R121). -/
def edgeAndProcess (l : Level) (t : Nat) : List Statement := [.send (edge l t), .run]

/-- `EP` of each edge in order. -/
def processEdges : List (Level × Nat) → List Statement
  | [] => []
  | e :: rest => edgeAndProcess e.1 e.2 ++ processEdges rest

/-- `BYTE d, W, S, G` (R121). -/
def byteProgram (d : Byte) (width stops gap : Nat) : List Statement := processEdges (tx d width stops gap)

/-- The checksum of a payload (R108, R109): the XOR of the header and the payload. -/
def payloadChecksum (payload : List Byte) : Byte :=
  payload.foldl (· ^^^ ·) (Config.header0 ^^^ Config.header1)

/-- The 11 bytes of a frame (R108). -/
def frameBytes (payload : List Byte) : List Byte :=
  [Config.header0, Config.header1] ++ payload ++ [payloadChecksum payload]

/-- `BYTE b, W, S, G` of each byte in order. -/
def bytesProgram (width stops gap : Nat) : List Byte → List Statement
  | [] => []
  | b :: rest => byteProgram b width stops gap ++ bytesProgram width stops gap rest

/-- `FRAME d0, ..., d7, W` (R121), with the defaults `S = 1` and `G = 1000`. -/
def frameProgram (payload : List Byte) (width : Nat) : List Statement := bytesProgram width 1 1000 (frameBytes payload)

end Sys2Proof.Machine
end

