-- ==== Sys2Proof/Safety.lean ====
section
/-!
DEFINITION. What a claim calls a good state or a good end: the quiescent state (spec/00_scope.md R16), the end of a finite run
(spec/70_reset_and_hazards.md R254), the condition of each operation, the ownership of the cells (spec/10_state.md R49), and the invariant of the block's reachable
states.
-/

namespace Sys2Proof.Machine

/-- Quiescent: `fg = Poll` and `obs = last` (R16). -/
def State.quiescent (s : State) : Bool := s.fg == fgPoll && !s.changed

/-- A finite run is over: the stimulus is used up, the state is quiescent, and `fault = 0` (R254, decision D32). -/
def State.over (s : State) : Bool := s.schedule.isEmpty && s.quiescent && !s.fault

/-- The operations of a list run one after the other, up to the first that does not answer a next state. -/
def execAll : List Instr → State → Outcome
  | [], s => .next s
  | i :: rest, s =>
    match exec i s with
    | .next t => execAll rest t
    | .fault r => .fault r
    | .refused r => .refused r

/-- The condition of each operation, as its own rule states it (spec/40_edge_capture.md to 43_display_scanner.md): where it holds the
operation has its effect. A poll needs `fault = 0` and `fg = Poll` (R150), and the operand of `PERIODS` is "not 0" (R158). -/
def State.enables (s : State) : Instr → Prop
  | .tmrInc => True
  | .cap l => l ≠ s.line
  | .halt => s.fault = true
  | .pollNop => s.fault = false ∧ s.fg = 0#4 ∧ s.obs = s.last
  | .idleFall => s.fault = false ∧ s.fg = 0#4 ∧ s.obs ≠ s.last ∧ s.st = 0#2 ∧ s.obs.level = false
  | .idleRise => s.fault = false ∧ s.fg = 0#4 ∧ s.obs ≠ s.last ∧ s.st = 0#2 ∧ s.obs.level = true
  | .startFall => s.fault = false ∧ s.fg = 0#4 ∧ s.obs ≠ s.last ∧ s.st = 1#2 ∧ s.obs.level = false
  | .startRise => s.fault = false ∧ s.fg = 0#4 ∧ s.obs ≠ s.last ∧ s.st = 1#2 ∧ s.obs.level = true
  | .dataEdge l => s.fault = false ∧ s.fg = 0#4 ∧ s.obs ≠ s.last ∧ s.st = 2#2 ∧ s.obs.level = l ∧ s.bw ≠ 0#16
  | .dataFault => s.fault = false ∧ s.fg = 0#4 ∧ s.obs ≠ s.last ∧ s.st = 2#2 ∧ s.bw = 0#16
  | .copy0 => s.fault = false ∧ s.fg = 1#4
  | .copy1 => s.fault = false ∧ s.fg = 2#4
  | .copy2 => s.fault = false ∧ s.fg = 3#4
  | .copy3 => s.fault = false ∧ s.fg = 4#4
  | .copy4 => s.fault = false ∧ s.fg = 5#4
  | .copy5 => s.fault = false ∧ s.fg = 6#4
  | .copy6 => s.fault = false ∧ s.fg = 7#4
  | .copy7 => s.fault = false ∧ s.fg = 8#4
  | .clear => s.fault = false ∧ s.fg = 9#4
  | .tick => True
  | .periods => s.bw ≠ 0#16
  | .shift _ => True
  | .append => True
  | .scanNohdr => ¬(s.win 0 = 0x55#8 ∧ s.win 1 = 0xAA#8)
  | .scanBadsum => (s.win 0 = 0x55#8 ∧ s.win 1 = 0xAA#8) ∧ s.checksum ≠ s.win 10
  | .scanAccept => (s.win 0 = 0x55#8 ∧ s.win 1 = 0xAA#8) ∧ s.checksum = s.win 10
  | .tAdv => True
  | .tBlank => True
  | .tCols => True
  | .tSelect => True

/-- The block is running: the bring-up is in place (R50) and no sub-operation is presented alone (R114). -/
def State.running (s : State) : Prop := s.cfg = BringUp.complete ∧ s.subSel = none

/-- The cells that the interval timer and EdgeCapture write: `line`, `obs`, `tcnt` (R49, R235). -/
def State.sameInput (s t : State) : Prop := t.line = s.line ∧ t.obs = s.obs ∧ t.tcnt = s.tcnt

/-- The cells that the foreground writes and only it reads (R49). -/
def State.sameForeground (s t : State) : Prop :=
  t.last = s.last ∧ t.st = s.st ∧ t.bw = s.bw ∧ t.acc = s.acc ∧ t.ring = s.ring ∧ t.cur = s.cur ∧ t.fg = s.fg ∧ t.fault = s.fault

/-- The cells that DisplayScanner writes: `row`, `COL`, `ROWSEL` (R49, R235). -/
def State.sameScanner (s t : State) : Prop := t.row = s.row ∧ t.col = s.col ∧ t.rowsel = s.rowsel

/-- What no operation writes: the configuration record (R50) and the model's own two fields. -/
def State.sameOutside (s t : State) : Prop := t.cfg = s.cfg ∧ t.schedule = s.schedule ∧ t.subSel = s.subSel

/-- The invariant: the arrays are canonical; `st`, `fg` and a used `acc.cnt` are legal (R37, R38, R46); at most the select line of
`row` is asserted (R206); a fault was taken in `Data` with `bw = 0`, outside a copy (R220, R190 item 5); from acceptance to
`CLEAR` the window holds the accepted frame and the rows already copied are its payload (R185, R186); and no sub-operation is
presented alone (R114). -/
structure State.Inv (s : State) : Prop where
  ring_wf : s.ring.wf Config.ringLen = true
  disp_wf : s.disp.wf Config.rows = true
  st_legal : s.st ≠ 3#2
  fg_legal : s.fg.toNat ≤ 9
  cnt_legal : s.st = stData → s.acc.cnt.toNat ≤ 10
  rowsel_legal : s.rowsel = 0x00#8 ∨ s.rowsel = 1#8 <<< s.row.toNat
  fault_legal : s.fault = true → s.fg = fgPoll ∧ s.st = stData ∧ s.bw = 0#16
  frame_pending : s.fg ≠ fgPoll → s.hm = true ∧ s.cm = true
  rows_copied : ∀ i : Fin 8, i.val + 1 < s.fg.toNat → s.dispRead i = s.win (2 + i.val)
  no_sub : s.subSel = none

end Sys2Proof.Machine
end

