-- ==== Sys2Proof/Certificates/Slice0/Obligations.lean ====
section
/-!
DEFINITION. The statements for the provers, from the numbered rules of spec/. None of them is about a program.
-/

open Sys2Proof Sys2Proof.Machine

/-! ## Encoding (30_encoding.md) -/

/-- R113, R115: decoding the encoding of an operation gives the operation, and a selector word is an operation's exactly when it has
the pattern of its row. -/
def Obligations.DecodeAndEncodeAgree : Prop :=
  (∀ i : Instr, i.wellFormed = true → decode (encode i) = .ok i) ∧
  ∀ (w : SelWord) (i : Instr), decode w = .ok i ↔ matchesPattern w i = true

/-- R116: the words that match no row are those R116 lists, and a step whose selector is one refuses it by name: a top-level selector
computed from the next trigger (notes/assumptions/4.md, 11.md), or a sub-operation selector presented alone
(notes/assumptions/6.md). -/
def Obligations.SelectorsOfNoRowAreRefused : Prop :=
  (∀ w : BitVec 12, decodeTop w = .error .noTopRow ↔ topUnlisted w = true) ∧
  (∀ w : BitVec 8, decodeSub w = .error .noSubRow ↔ subUnlisted w = true) ∧
  (∀ s : State, s.running → topUnlisted (selector (nextTrigger s).1 (nextTrigger s).2) = true →
    step s = .refused (.noTopRow (selector (nextTrigger s).1 (nextTrigger s).2))) ∧
  ∀ (s : State) (w : BitVec 8), s.cfg = BringUp.complete → s.subSel = some w → subUnlisted w = true →
    step s = .refused (.noSubRow w)

/-- R113, R115: words written out digit by digit from the patterns are the operations they stand for. -/
def Obligations.SampleSelectorWordsDecode : Prop :=
  decodeTop 0b000000000000#12 = .ok .tmrInc ∧ decodeTop 0b010000000100#12 = .ok (.cap true) ∧
  decodeTop 0b100000001000#12 = .ok .idleFall ∧ decodeTop 0b100000011100#12 = .ok .startRise ∧
  decodeTop 0b100000101100#12 = .ok (.dataEdge true) ∧ decodeTop 0b100000101110#12 = .ok .dataFault ∧
  decodeTop 0b100100000000#12 = .ok .copy3 ∧ decodeTop 0b101001000000#12 = .ok .clear ∧
  decodeTop 0b100000101111#12 = .ok .halt ∧ decodeTop 0b110000000001#12 = .ok .tick ∧
  decodeSub 0b00100001#8 = .ok (.shift true) ∧ decodeSub 0b01000011#8 = .ok .scanAccept

/-! ## The step (00_scope.md R13, 20_memory.md R84, 30_encoding.md R112, R119) -/

/-- R119: one step computes the selector of the trigger that acts next and runs the operation it names. R84 lets any enabled agent
act: that the oldest trigger of `schedule` acts and is dropped is the model's choice (notes/assumptions/4.md), and so are that the
foreground acts where none is left (5.md) and that a sub-operation selector presented alone runs first (6.md). -/
def Obligations.StepRunsTheSelectedOperation : Prop :=
  (∀ s : State, s.schedule = [] → nextTrigger s = (.foreground, s)) ∧
  (∀ (s : State) (e : Trigger) (rest : List Trigger), s.schedule = e :: rest →
    nextTrigger s = (e, { s with schedule := rest })) ∧
  (∀ (s : State) (i : Instr), i.wellFormed = true → s.running →
    decodeTop (selector (nextTrigger s).1 (nextTrigger s).2) = .ok i → step s = exec i (nextTrigger s).2) ∧
  ∀ (s : State) (i : Instr) (w : BitVec 8), i.wellFormed = true → s.cfg = BringUp.complete → s.subSel = some w →
    decodeSub w = .ok i → step s = exec i { s with subSel := none }

/-- R112 to R115: from every state, the word of any row can be made the next operation; the step fetches exactly that operation, runs
it, and answers a next state. How a word is placed is the model's (notes/assumptions/15.md), and so are the sub-operations run alone
(6.md), the step of `HALT`, of which R160 says that the foreground has none (8.md), and `SHIFT` and `DATA.EDGE` at `acc.cnt` from 11 to
15 (U10; 21.md). -/
def Obligations.EveryRowCanBeTheNextOperation : Prop :=
  ∀ (s : State) (i : Instr), ∃ s' t : State,
    fetch (s.withFetchWord (encode i).tableBits (encode i).toNat) = .ok (i, s') ∧ exec i s' = .next t ∧
    step (s.withFetchWord (encode i).tableBits (encode i).toNat) = .next t

/-- R113, R119: in every state with a legal `st` and `fg`, exactly one top-level operation of the foreground has its condition met,
and it is the one the selector names. With `fault = 1` it is `HALT`, whose next state is the model's choice: R160 and U13 give the
foreground no step (notes/assumptions/8.md). That `DATA.EDGE` completes at `acc.cnt` from 11 to 15 is the model's choice too (U10;
21.md). -/
def Obligations.ForegroundHasExactlyOneOperation : Prop :=
  ∀ s : State, s.st ≠ 3#2 → s.fg.toNat ≤ 9 →
    ∃ i : Instr, decodeTop (selector .foreground s) = .ok i ∧ i.isTop = true ∧ i.agent = .foreground ∧
      (∃ t, exec i s = .next t) ∧
      ∀ j : Instr, j.isTop = true → j.agent = .foreground → (∃ t, exec j s = .next t) → j = i

/-- R84, R233: a state that meets the invariant, with the bring-up in place, stops for nothing but a "transition" to the level the
line already has (U11). With `fault = 1` the foreground's next state is the model's `HALT` (notes/assumptions/8.md; R84 gives `FG` a
step only while `fault = 0`), and with an empty schedule the foreground acts by the model's choice (5.md). -/
def Obligations.NoReachableStateStops : Prop :=
  ∀ s : State, s.Inv → s.cfg = BringUp.complete →
    (∀ (l : Level) (rest : List Trigger), s.schedule = .lineTransition l :: rest → l ≠ s.line) →
    ∃ t, step s = .next t

/-- R50, U12: with a precondition of `cfg` missing, no operation is run (notes/assumptions/10.md). -/
def Obligations.BringUpIsAPrecondition : Prop :=
  ∀ s : State, s.cfg ≠ BringUp.complete → step s = .refused .bringUpIncomplete

/-- The model's own stops (notes/assumptions/7.md, 9.md): an operation answers a next state where the condition of its own rule holds,
and elsewhere, where the selector never names it (R113, R119), it is refused as not enabled, but for a `CAP` of no transition (U11) and
`PERIODS` alone with `bw = 0` (R158, U1), which have a name of their own. The operations without a condition never stop. That `HALT`
answers a next state where `fault = 1` is the model's choice: R160 and U13 give the foreground no step (8.md). That a sub-operation runs
alone is the model's too (6.md), and so is that `SHIFT` and `DATA.EDGE` complete at `acc.cnt` from 11 to 15 (U10; 21.md). -/
def Obligations.StopsAreNamed : Prop :=
  ∀ s : State,
    (∀ i : Instr,
      (s.enables i ∧ ∃ t, exec i s = .next t) ∨
      (¬s.enables i ∧ (∀ l, i ≠ .cap l) ∧ i ≠ .periods ∧ exec i s = .refused (.notEnabled i)) ∨
      (∃ l, i = .cap l ∧ l = s.line ∧ exec i s = .refused .noTransition) ∨
      (i = .periods ∧ s.bw = 0#16 ∧ exec i s = .fault .zeroBitWidth)) ∧
    ∀ i ∈ [Instr.tmrInc, .tick, .shift false, .shift true, .append, .tAdv, .tBlank, .tCols, .tSelect], ∃ t, exec i s = .next t

/-! ## EdgeCapture (40_edge_capture.md) -/

/-- R140: `TMR.INC`. -/
def Obligations.TimerIncrement : Prop :=
  (∀ w : BitVec 12, decodeTop w = .ok .tmrInc ↔ w &&& 0b110000000000#12 = 0b000000000000#12) ∧
  Instr.tmrInc.agent = .env ∧
  ∀ s : State, exec .tmrInc s =
    .next { s with tcnt := BitVec.ofNat Config.timerWidth ((s.tcnt.toNat + 1) % 2 ^ Config.timerWidth) }

/-- R142: `CAP L`, enabled by a transition and run by it at once. -/
def Obligations.CaptureOfATransition : Prop :=
  (∀ (w : BitVec 12) (l : Level), decodeTop w = .ok (.cap l) ↔ w &&& 0b110000000000#12 = 0b010000000000#12 ∧ w.getLsbD 2 = l) ∧
  (∀ l : Level, (Instr.cap l).agent = .edgeCapture) ∧
  (∀ (s : State) (l : Level), l ≠ s.line → exec (.cap l) s = .next { s with line := l, obs := ⟨l, s.tcnt⟩, tcnt := 0#16 }) ∧
  ∀ (s : State) (l : Level) (rest : List Trigger), s.running → s.schedule = .lineTransition l :: rest → l ≠ s.line →
    step s = .next { s with line := l, obs := ⟨l, s.tcnt⟩, tcnt := 0#16, schedule := rest }

/-- R85 item 4, R142: what a `CAP` records is the number of timer ticks since the previous one, modulo `2^TW`, whatever else ran in
between. -/
def Obligations.IntervalIsTheNumberOfTicks : Prop :=
  ∀ (s t : State) (between : List Trigger) (l : Level), s.running → s.tcnt = 0#16 →
    (∀ e ∈ between, ∀ l', e ≠ .lineTransition l') →
    afterStimulus (between ++ [.lineTransition l]) s = .next t →
    t.obs = ⟨l, BitVec.ofNat Config.timerWidth (between.count .timerTick)⟩ ∧ t.tcnt = 0#16

/-- R35, R86: of two edges with no poll between them the first is lost, and if the second leaves `obs` equal to `last`, the next poll
sees no change at all. -/
def Obligations.UnpolledEdgeIsLost : Prop :=
  ∀ (s : State) (n m : Nat), s.running →
    ∃ t, afterStimulus (edge (!s.line) n ++ edge s.line m) s = .next t ∧
      t.obs = ⟨s.line, BitVec.ofNat Config.timerWidth m⟩ ∧ s.sameForeground t ∧ t.disp = s.disp ∧
      (s.fault = false → s.fg = 0#4 → s.last = ⟨s.line, BitVec.ofNat Config.timerWidth m⟩ →
        decodeTop (selector .foreground t) = .ok .pollNop)

/-- R227: `CAP` and `TICK` at the same moment may run in either order; the state cannot tell. -/
def Obligations.CaptureAndTickCommute : Prop :=
  ∀ (s : State) (l : Level), l ≠ s.line →
    ∃ t, execAll [.cap l, .tick] s = .next t ∧ execAll [.tick, .cap l] s = .next t

/-! ## SignalDecoder (41_signal_decoder.md) -/

/-- R160, R221: after the fault the selected operation of the foreground is `HALT`, which changes nothing, the other agents' operations
complete, and the state is no successful end. That `HALT` answers a next state is the model's reading of "no step":
notes/assumptions/8.md. -/
def Obligations.HaltAfterTheFault : Prop :=
  (∀ w : BitVec 12, decodeTop w = .ok .halt ↔ w &&& 0b110000000001#12 = 0b100000000001#12) ∧
  ∀ s : State, s.fault = true →
    decodeTop (selector .foreground s) = .ok .halt ∧ exec .halt s = .next s ∧ s.over = false ∧
    (∃ t, exec .tmrInc s = .next t) ∧ (∃ t, exec .tick s = .next t) ∧
    ∀ l : Level, l ≠ s.line → ∃ t, exec (.cap l) s = .next t

/-- R151: `POLL.NOP`. -/
def Obligations.PollWithoutChange : Prop :=
  (∀ w : BitVec 12, decodeTop w = .ok .pollNop ↔ w &&& 0b111111001001#12 = 0b100000000000#12) ∧
  ∀ s : State, s.fault = false → s.fg = 0#4 → s.obs = s.last → exec .pollNop s = .next s

/-- R152, R153: `IDLE.FALL` and `IDLE.RISE`. -/
def Obligations.IdleOperations : Prop :=
  (∀ w : BitVec 12, decodeTop w = .ok .idleFall ↔ w &&& 0b111111111101#12 = 0b100000001000#12) ∧
  (∀ w : BitVec 12, decodeTop w = .ok .idleRise ↔ w &&& 0b111111111101#12 = 0b100000001100#12) ∧
  ∀ s : State, s.fault = false → s.fg = 0#4 → s.st = 0#2 → s.obs ≠ s.last →
    (s.obs.level = false → exec .idleFall s = .next { s with last := s.obs, st := 1#2 }) ∧
    (s.obs.level = true → exec .idleRise s = .next { s with last := s.obs })

/-- R154, R155: `START.RISE` and `START.FALL`. -/
def Obligations.StartOperations : Prop :=
  (∀ w : BitVec 12, decodeTop w = .ok .startRise ↔ w &&& 0b111111111101#12 = 0b100000011100#12) ∧
  (∀ w : BitVec 12, decodeTop w = .ok .startFall ↔ w &&& 0b111111111101#12 = 0b100000011000#12) ∧
  ∀ s : State, s.fault = false → s.fg = 0#4 → s.st = 1#2 → s.obs ≠ s.last →
    (s.obs.level = true →
      exec .startRise s = .next { s with last := s.obs, bw := s.obs.interval, acc := ⟨0#8, 0#4⟩, st := 2#2 }) ∧
    (s.obs.level = false → exec .startFall s = .next { s with last := s.obs })

/-- R156: `DATA.FAULT` updates `last`, raises the fault, and writes nothing else. -/
def Obligations.DataFaultTakesTheFault : Prop :=
  (∀ w : BitVec 12, decodeTop w = .ok .dataFault ↔ w &&& 0b111111111011#12 = 0b100000101010#12) ∧
  ∀ s : State, s.fault = false → s.fg = 0#4 → s.st = 2#2 → s.obs ≠ s.last → s.bw = 0#16 →
    exec .dataFault s = .next { s with last := s.obs, fault := true }

/-- R157 to R159, R181: `DATA.EDGE` in closed form. With `n` periods counted, `k` bits of the edge's value are shifted in at once,
where `k` is `n` but at most what takes `acc.cnt` to 10 (one, if it is there already); the byte that stands in the accumulator after
the ninth bit is appended; the decoder returns to `Idle` exactly when the count is past 9 and the level is high. -/
def Obligations.DataEdgeClosedForm : Prop :=
  ∀ s : State, s.fault = false → s.fg = 0#4 → s.st = 2#2 → s.obs ≠ s.last → s.bw ≠ 0#16 → s.acc.cnt.toNat ≤ 10 →
    let n := (s.obs.interval.toNat + 2 ^ 16 - s.bw.toNat / 2) % 2 ^ 16 / s.bw.toNat + 1
    let cnt := s.acc.cnt.toNat
    let k := min n (if cnt < 10 then 10 - cnt else 1)
    let shifted : Nat → Byte := fun j => (s.acc.data <<< j) ||| (if s.obs.level then (1#8 <<< j) - 1#8 else 0#8)
    let base := if cnt ≤ 8 ∧ 9 ≤ cnt + k then s.appendByte (shifted (9 - cnt)) else s
    exec (.dataEdge s.obs.level) s =
      .next { base with
        last := s.obs
        acc := ⟨shifted k, BitVec.ofNat 4 (min (cnt + k) 10)⟩
        st := if 9 < cnt + k ∧ s.obs.level = true then 0#2 else 2#2 }

/-- R157: `DATA.EDGE L` is `last <- o`, one `PERIODS`, then `SHIFT L` run one by one, at least once and at most `n` times, left as soon
as `acc.cnt > 9`, then the stop test. That it runs at `acc.cnt` from 11 to 15 is the model's choice (U10; notes/assumptions/21.md). -/
def Obligations.DataEdgeRunsItsSubOperations : Prop :=
  (∀ (w : BitVec 12) (l : Level), decodeTop w = .ok (.dataEdge l) ↔
    w &&& 0b111111111011#12 = 0b100000101000#12 ∧ w.getLsbD 2 = l) ∧
  ∀ s : State, s.fault = false → s.fg = 0#4 → s.st = 2#2 → s.obs ≠ s.last → s.bw ≠ 0#16 →
    ∃ (k : Nat) (u : State), 1 ≤ k ∧ k ≤ periods s.obs.interval s.bw ∧
      execAll (.periods :: List.replicate k (.shift s.obs.level)) { s with last := s.obs } = .next u ∧
      (k = periods s.obs.interval s.bw ∨ 9 < u.acc.cnt.toNat) ∧
      (∀ j, 1 ≤ j → j < k → ∃ v, execAll (List.replicate j (.shift s.obs.level)) { s with last := s.obs } = .next v ∧
        v.acc.cnt.toNat ≤ 9) ∧
      exec (.dataEdge s.obs.level) s =
        .next (if 9 < u.acc.cnt.toNat ∧ s.obs.level = true then { u with st := 0#2 } else u)

/-- R158: `PERIODS`, for every timer width: the count, its bounds, and that it writes no state. -/
def Obligations.PeriodCount : Prop :=
  (∀ w : BitVec 8, decodeSub w = .ok .periods ↔ w = 0b00010000#8) ∧
  (∀ (width : Nat) (iv bw : BitVec width), bw ≠ 0#width →
    periods iv bw = (iv.toNat + 2 ^ width - bw.toNat / 2) % 2 ^ width / bw.toNat + 1 ∧
    1 ≤ periods iv bw ∧ periods iv bw ≤ 2 ^ width) ∧
  ∀ s : State, s.bw ≠ 0#16 → exec .periods s = .next s

/-- R157 (R158 marks it as derived from there): a count of ten periods or more acts as ten. At `acc.cnt` from 11 to 15 it says
what the model chose (U10; notes/assumptions/21.md). -/
def Obligations.TenPeriodsActAlike : Prop :=
  ∀ (b : Bool) (n : Nat) (s : State), 10 ≤ n → State.shiftLoop b n s = State.shiftLoop b 10 s

/-- U1, the model's choice for a sub-operation presented alone (notes/assumptions/9.md): with `bw = 0` no quotient is formed. -/
def Obligations.PeriodsAloneWithZeroWidthFaults : Prop :=
  ∀ s : State, s.bw = 0#16 → exec .periods s = .fault .zeroBitWidth

/-- R164 where the subtraction does not wrap, for every timer width: a run of `k` periods is counted as `k` exactly inside its
window. -/
def Obligations.CountingWindow : Prop :=
  ∀ (width : Nat) (iv bw : BitVec width) (k : Nat), 2 ≤ bw.toNat → 1 ≤ k → bw.toNat / 2 ≤ iv.toNat →
    (periods iv bw = k ↔ (k - 1) * bw.toNat + bw.toNat / 2 ≤ iv.toNat ∧ iv.toNat ≤ k * bw.toNat + bw.toNat / 2 - 1)

/-- R164 as it is written, without the premise that the subtraction does not wrap: below half a period R165 item 2 counts a wrapped
number of periods, outside its window. Expected to fail. -/
def Obligations.CountingWindowAsWritten : Prop :=
  ∀ (iv bw : Interval) (k : Nat), 2 ≤ bw.toNat → 1 ≤ k →
    (periods iv bw = k ↔ (k - 1) * bw.toNat + bw.toNat / 2 ≤ iv.toNat ∧ iv.toNat ≤ k * bw.toNat + bw.toNat / 2 - 1)

/-- R165 items 1 and 2, for every timer width: one tick a bit counts one period too many, and an edge sooner than half a period counts
the wrapped difference, at least 10 for every width up to a tenth of the timer's range. -/
def Obligations.PeriodCountCorners : Prop :=
  (∀ (width : Nat) (iv bw : BitVec width), bw.toNat = 1 → periods iv bw = iv.toNat + 1) ∧
  ∀ (width : Nat) (iv bw : BitVec width), iv.toNat < bw.toNat / 2 →
    periods iv bw = (2 ^ width - (bw.toNat / 2 - iv.toNat)) / bw.toNat + 1 ∧
    (bw.toNat * 10 ≤ 2 ^ width → 10 ≤ periods iv bw)

/-- R159: `SHIFT b`. That it runs at `acc.cnt` from 11 to 15, with the rule's own formula, is the model's choice (U10;
notes/assumptions/21.md). -/
def Obligations.ShiftOneBit : Prop :=
  (∀ (w : BitVec 8) (b : Bool), decodeSub w = .ok (.shift b) ↔ w &&& 0b11111110#8 = 0b00100000#8 ∧ w.getLsbD 0 = b) ∧
  ∀ (s : State) (b : Bool),
    let a : Accumulator :=
      ⟨BitVec.ofNat 8 ((s.acc.data.toNat * 2 + b.toNat) % 256), BitVec.ofNat 4 (min (s.acc.cnt.toNat + 1) 10)⟩
    (∃ t, exec (.shift b) s = .next t ∧ t.acc = a) ∧
    (a.cnt = 9#4 ↔ s.acc.cnt = 8#4) ∧
    (a.cnt = 9#4 → exec (.shift b) s = exec .append { s with acc := a }) ∧
    (a.cnt ≠ 9#4 → exec (.shift b) s = .next { s with acc := a })

/-- R163: the transitions of `st`, over every operation: there is no other way out of a decoder state. -/
def Obligations.DecoderStateTransitions : Prop :=
  ∀ (i : Instr) (s t : State), exec i s = .next t → t.st ≠ s.st →
    (i = .idleFall ∧ s.st = 0#2 ∧ s.obs.level = false ∧ t.st = 1#2) ∨
    (i = .startRise ∧ s.st = 1#2 ∧ s.obs.level = true ∧ t.st = 2#2) ∨
    (i = .dataEdge true ∧ s.st = 2#2 ∧ s.obs.level = true ∧ 9 < t.acc.cnt.toNat ∧ t.st = 0#2)

/-! ## FrameSync (42_frame_sync.md) -/

/-- R181: `APPEND`: the oldest cell takes the byte, the cursor advances modulo 11, and one scan operation runs on the new window; in
that window the byte is the youngest and every other byte is one place older; `CLEAR` does not reset the cursor. -/
def Obligations.AppendOneByte : Prop :=
  (∀ w : BitVec 8, decodeSub w = .ok .append ↔ w = 0b00110000#8) ∧
  ∀ s : State, ∃ t, exec .append s = .next t ∧
    (∀ j : Fin 11, t.ringRead j = if j = s.cur then s.acc.data else s.ringRead j) ∧
    t.cur.val = (s.cur.val + 1) % 11 ∧
    t = { s with ring := t.ring, cur := t.cur, fg := t.fg } ∧
    (∃ op ∈ [Instr.scanNohdr, Instr.scanBadsum, Instr.scanAccept], exec op { s with ring := t.ring, cur := t.cur } = .next t) ∧
    t.win 10 = s.acc.data ∧ (∀ k, k < 10 → t.win k = s.win (k + 1)) ∧
    ∀ u, exec .clear s = .next u → u.cur = s.cur

/-- R182, R184, R185 (the window by R41, its checksum by R183): the three outcomes of a scan, and (R183 marks it as derived) the
checksum of a window that begins with the header. -/
def Obligations.ScanOutcomes : Prop :=
  (∀ w : BitVec 8, decodeSub w = .ok .scanNohdr ↔ w &&& 0b11111110#8 = 0b01000000#8) ∧
  (∀ w : BitVec 8, decodeSub w = .ok .scanBadsum ↔ w = 0b01000010#8) ∧
  (∀ w : BitVec 8, decodeSub w = .ok .scanAccept ↔ w = 0b01000011#8) ∧
  ∀ s : State,
    let win : Nat → Byte := fun k => s.ring.read ((s.cur.val + k) % 11)
    let x := win 0 ^^^ win 1 ^^^ win 2 ^^^ win 3 ^^^ win 4 ^^^ win 5 ^^^ win 6 ^^^ win 7 ^^^ win 8 ^^^ win 9
    (¬(win 0 = 0x55#8 ∧ win 1 = 0xAA#8) → exec .scanNohdr s = .next s) ∧
    (win 0 = 0x55#8 ∧ win 1 = 0xAA#8 → x = 0xFF#8 ^^^ win 2 ^^^ win 3 ^^^ win 4 ^^^ win 5 ^^^ win 6 ^^^ win 7 ^^^ win 8 ^^^ win 9) ∧
    (win 0 = 0x55#8 ∧ win 1 = 0xAA#8 ∧ x ≠ win 10 → exec .scanBadsum s = .next s) ∧
    (win 0 = 0x55#8 ∧ win 1 = 0xAA#8 ∧ x = win 10 → exec .scanAccept s = .next { s with fg := 1#4 })

/-- R186: `COPY i` for each `i`: one row of the display takes its payload byte, the phase advances, nothing else changes. -/
def Obligations.CopyOneRow : Prop :=
  ∀ (i : Fin 8) (op : Instr),
    (i, op) ∈ [((0 : Fin 8), Instr.copy0), (1, .copy1), (2, .copy2), (3, .copy3), (4, .copy4), (5, .copy5), (6, .copy6), (7, .copy7)] →
    (∀ w : BitVec 12, decodeTop w = .ok op ↔
      w &&& 0b111111000001#12 = 0b100000000000#12 ||| (BitVec.ofNat 12 (i.val + 1) <<< 6)) ∧
    ∀ s : State, s.fault = false → s.fg.toNat = i.val + 1 →
      ∃ t, exec op s = .next t ∧
        t.dispRead i = s.ring.read ((s.cur.val + 2 + i.val) % 11) ∧
        (∀ j : Fin 8, j ≠ i → t.dispRead j = s.dispRead j) ∧
        t.fg.toNat = s.fg.toNat + 1 ∧
        t = { s with disp := t.disp, fg := t.fg }

/-- R187: `CLEAR` zeroes all 11 cells and keeps the cursor; after it (R187 marks it as derived from R181)
the ring cannot match before 11 more bytes are appended. That a cleared canonical ring is the empty list is the model's form
of an array (notes/assumptions/12.md). -/
def Obligations.ClearConsumesTheFrame : Prop :=
  (∀ w : BitVec 12, decodeTop w = .ok .clear ↔ w &&& 0b111111000001#12 = 0b101001000000#12) ∧
  ∀ s : State, s.fault = false → s.fg = 9#4 →
    ∃ t, exec .clear s = .next t ∧ (∀ j : Fin 11, t.ringRead j = 0#8) ∧ t = { s with ring := t.ring, fg := 0#4 } ∧
      (s.ring.wf 11 = true → t.ring = []) ∧
      ∀ bytes : List Byte, bytes.length ≤ 10 → (bytes.foldl State.appendByte t).hm = false

/-- R188: the transitions of `fg`, over every operation. -/
def Obligations.PhaseTransitions : Prop :=
  ∀ (i : Instr) (s t : State), exec i s = .next t → t.fg ≠ s.fg →
    ((i = .scanAccept ∨ i = .append ∨ (∃ b, i = .shift b) ∨ (∃ l, i = .dataEdge l ∧ s.fg = 0#4)) ∧
      t.fg = 1#4 ∧ t.hm = true ∧ t.cm = true) ∨
    (∃ k : Fin 8, i = (match k with
        | 0 => Instr.copy0 | 1 => .copy1 | 2 => .copy2 | 3 => .copy3 | 4 => .copy4 | 5 => .copy5 | 6 => .copy6 | 7 => .copy7) ∧
      s.fg.toNat = k.val + 1 ∧ t.fg.toNat = k.val + 2) ∨
    (i = .clear ∧ s.fg = 9#4 ∧ t.fg = 0#4)

/-- R189 items 1 to 3: eleven bytes of a frame, appended from any ring at any rotation, are accepted when the checksum is appended,
with the payload at `win[2..9]` and the cursor where the frame began; with any other last byte they are not. -/
def Obligations.FrameIsAcceptedAtEveryRotation : Prop :=
  ∀ (s : State) (payload : List Byte), payload.length = 8 →
    (let t := (frameBytes payload).foldl State.appendByte s
     t.fg = 1#4 ∧ t.cur = s.cur ∧ ∀ i, i < 8 → t.win (2 + i) = payload.getD i 0#8) ∧
    ∀ c : Byte, c ≠ payloadChecksum payload →
      let u := ([0x55#8, 0xAA#8] ++ payload).foldl State.appendByte s
      (u.appendByte c).fg = u.fg ∧ (u.appendByte c).hm = true ∧ (u.appendByte c).cm = false

/-- R186, R187: from acceptance, nine foreground operations, with any other triggers between them, publish the payload, zero the ring
and return to `Poll`; the cursor and the decoder's cells are kept. -/
def Obligations.CopyOutUnderInterrupts : Prop :=
  ∀ s : State, s.running → s.fault = false → s.fg = 1#4 →
    (∃ t, afterStimulus (List.replicate 9 .foreground) s = .next t) ∧
    ∀ (t : State) (stimulus : List Trigger), stimulus.count .foreground = 9 → afterStimulus stimulus s = .next t →
      (∀ i : Fin 8, t.dispRead i = s.win (2 + i.val)) ∧ (∀ j : Fin 11, t.ringRead j = 0#8) ∧ t.cur = s.cur ∧ t.fg = 0#4 ∧
      t.last = s.last ∧ t.st = s.st ∧ t.bw = s.bw ∧ t.acc = s.acc ∧ t.fault = false

/-- R189 item 6: one flipped bit anywhere in the eleven bytes of a valid window prevents its acceptance. -/
def Obligations.FlippedBitIsRejected : Prop :=
  ∀ (s : State) (k : Nat) (bit : Nat), k < 11 → bit < 8 → s.hm = true → s.cm = true →
    let t := s.ringWrite (ringIndex s.cur k) (s.win k ^^^ (1#8 <<< bit))
    (t.hm && t.cm) = false

/-- R109: the checksum is the complement of the XOR of the payload, and a frame's eleven bytes XOR to zero. -/
def Obligations.ChecksumOfAFrame : Prop :=
  ∀ payload : List Byte,
    payloadChecksum payload = ~~~(payload.foldl (· ^^^ ·) 0#8) ∧
    (frameBytes payload).foldl (· ^^^ ·) 0#8 = 0#8

/-! ## DisplayScanner (43_display_scanner.md) -/

/-- R200: `TICK` is its four sub-steps in order. -/
def Obligations.RefreshTick : Prop :=
  (∀ w : BitVec 12, decodeTop w = .ok .tick ↔ w &&& 0b110000000000#12 = 0b110000000000#12) ∧
  Instr.tick.agent = .displayScanner ∧
  ∀ s : State,
    exec .tick s = execAll [.tAdv, .tBlank, .tCols, .tSelect] s ∧
    exec .tick s = .next { s with
      row := BitVec.ofNat 3 ((s.row.toNat + 1) % 8)
      col := s.disp.read ((s.row.toNat + 1) % 8)
      rowsel := 1#8 <<< ((s.row.toNat + 1) % 8) }

/-- R201 to R204: the four sub-steps; after `T.BLANK` no physical line is asserted; behind an injective `RowMap` the physical line of a
row is asserted exactly when the row is the one selected. -/
def Obligations.TickSubSteps : Prop :=
  (∀ w : BitVec 8, decodeSub w = .ok .tAdv ↔ w = 0b01010000#8) ∧
  (∀ w : BitVec 8, decodeSub w = .ok .tBlank ↔ w = 0b01100000#8) ∧
  (∀ w : BitVec 8, decodeSub w = .ok .tCols ↔ w = 0b01110000#8) ∧
  (∀ w : BitVec 8, decodeSub w = .ok .tSelect ↔ w = 0b10000000#8) ∧
  (∀ s : State, exec .tAdv s = .next { s with row := BitVec.ofNat 3 ((s.row.toNat + 1) % 8) }) ∧
  (∀ s : State, exec .tBlank s = .next { s with rowsel := 0x00#8 }) ∧
  (∀ (s t : State) (w : Wiring) (l : SelectLine), exec .tBlank s = .next t → w.asserts t l = false) ∧
  (∀ s : State, exec .tCols s = .next { s with col := s.disp.read s.row.toNat }) ∧
  (∀ s : State, exec .tSelect s = .next { s with rowsel := 1#8 <<< s.row.toNat }) ∧
  ∀ (s t : State) (w : Wiring), w.injective → exec .tSelect s = .next t →
    ∀ r : Fin 8, w.asserts t (w.rowMap r) = true ↔ r.val = s.row.toNat

/-- R205, which the spec derives from R201 to R204: the values the outputs take in one tick, in order, and that they keep the last of
them until the next tick. -/
def Obligations.OutputTraceOfATick : Prop :=
  ∀ s : State,
    let r := (s.row.toNat + 1) % 8
    let v := s.disp.read r
    s.tickTrace = [(s.rowsel, s.col), (0x00#8, s.col), (0x00#8, v), (1#8 <<< r, v)] ∧
    (∃ t, exec .tick s = .next t ∧ t.outputs = (1#8 <<< r, v)) ∧
    ∀ (i : Instr) (t : State), i.agent ≠ .displayScanner → exec i s = .next t → t.outputs = s.outputs

/-- R206: at every instant at most one row is selected, inside a tick too, and behind an injective `RowMap` at most one physical line;
after a tick exactly the row `row`, with the byte read from its row on the columns. -/
def Obligations.AtMostOneRowIsSelected : Prop :=
  ∀ s : State, s.Inv →
    (∀ p ∈ s.tickTrace, p.1 = 0x00#8 ∨ ∃ r : Fin 8, p.1 = 1#8 <<< r.val) ∧
    (∀ (w : Wiring) (l l' : SelectLine), w.injective → w.asserts s l = true → w.asserts s l' = true → l = l') ∧
    ∃ t, exec .tick s = .next t ∧ t.rowsel = 1#8 <<< t.row.toNat ∧ t.col = s.disp.read t.row.toNat

/-- R207: round robin: the row moves on by one for each refresh tick and by nothing else, whatever runs in between. -/
def Obligations.RowsGoRoundRobin : Prop :=
  (∀ (s t : State) (stimulus : List Trigger), s.running → afterStimulus stimulus s = .next t →
    t.row.toNat = (s.row.toNat + stimulus.count .refreshTick) % 8 ∧
    (1 ≤ stimulus.count .refreshTick → t.rowsel = 1#8 <<< t.row.toNat)) ∧
  ∀ n : Nat, ∃ t, afterStimulus (ticks n) State.reset = .next t ∧ t.row.toNat = n % 8

/-- R186, R87: a tick after `j` of the foreground operations that follow an acceptance shows the accepted frame's byte if the row it
selects is below `j`, and the byte that row held at the acceptance otherwise, whatever else ran in between. -/
def Obligations.TornUpdateShowsOldOrNewRow : Prop :=
  ∀ (s u : State) (stimulus : List Trigger), s.running → s.fault = false → s.fg = 1#4 → stimulus.count .foreground ≤ 8 →
    afterStimulus stimulus s = .next u →
    ∃ t, exec .tick u = .next t ∧ afterStimulus (stimulus ++ [.refreshTick]) s = .next t ∧
      t.col = if t.row.toNat < stimulus.count .foreground then s.win (2 + t.row.toNat) else s.disp.read t.row.toNat

/-! ## Reset (10_state.md R55, 70_reset_and_hazards.md) -/

/-- R251 (by the spec's decisions D21, D22, D27): the reset state, for any value of the cells it leaves unspecified. -/
def Obligations.ResetState : Prop :=
  ∀ (bw : Interval) (acc : Accumulator),
    let s := State.resetWith true bw acc
    s.line = true ∧ s.tcnt = 0#16 ∧ s.obs = ⟨true, 0#16⟩ ∧ s.last = ⟨true, 0#16⟩ ∧ s.st = 0#2 ∧
    (∀ j : Fin 11, s.ringRead j = 0x00#8) ∧ s.cur = 0 ∧ (∀ i : Fin 8, s.dispRead i = 0x00#8) ∧ s.fg = 0#4 ∧ s.fault = false ∧
    s.row = 0#3 ∧ s.col = 0x00#8 ∧ s.rowsel = 0x00#8 ∧
    State.reset = State.resetWith true State.reset.bw State.reset.acc

/-- R252: the first steps after reset, for either level of the line and any unspecified values. -/
def Obligations.FirstStepsAfterReset : Prop :=
  ∀ (bw : Interval) (acc : Accumulator) (n : Nat),
    (let r := State.resetWith true bw acc
     decodeTop (selector .foreground r) = .ok .pollNop ∧ exec .pollNop r = .next r ∧
     exec .tick r = .next { r with row := 1#3, col := 0x00#8, rowsel := 0x02#8 } ∧
     (∀ t l, exec (.cap l) r = .next t → l = false) ∧
     ∃ t, afterStimulus (tmr n ++ [.lineTransition false, .foreground]) r = .next t ∧
       t.last = ⟨false, BitVec.ofNat Config.timerWidth n⟩ ∧ t.st = 1#2) ∧
    let r := State.resetWith false bw acc
    ∃ t u i, afterStimulus (tmr n ++ [.lineTransition true]) r = .next t ∧ t.obs = ⟨true, BitVec.ofNat Config.timerWidth n⟩ ∧
      decodeTop (selector .foreground t) = .ok i ∧ i = (if n % 2 ^ Config.timerWidth = 0 then .pollNop else .idleRise) ∧
      exec i t = .next u ∧ u.st = 0#2

/-- The invariant holds at reset, whatever the level of the line and the unspecified cells; and at the model's reset the mailbox's
level is the line's. -/
def Obligations.ResetMeetsTheInvariant : Prop :=
  (∀ (line0 : Level) (bw : Interval) (acc : Accumulator), (State.resetWith line0 bw acc).Inv) ∧
  State.reset.obs.level = State.reset.line

/-- U8, R36, R37: `bw` and `acc` are never read outside `Data`. Two states that differ in them only, not in `Data`, step alike, to
states that differ in them only, and not at all once they are in `Data`. -/
def Obligations.UnspecifiedResetValuesAreNeverRead : Prop :=
  ∀ (s t : State) (bw : Interval) (acc : Accumulator), s.st ≠ 2#2 → s.subSel = none → step s = .next t →
    ∃ t', step { s with bw := bw, acc := acc } = .next t' ∧ t' = { t with bw := t'.bw, acc := t'.acc } ∧
      (t.st = 2#2 → t' = t)

/-! ## The whole machine -/

/-- Every step keeps the invariant `State.Inv`: canonical arrays, legal `st`, `fg` and `acc.cnt`, at most one row selected, a fault only
where it can be taken, and from acceptance to `CLEAR` the accepted frame in the window with the copied rows equal to its payload. -/
def Obligations.StepKeepsTheInvariant : Prop :=
  ∀ s t : State, s.Inv → step s = .next t → t.Inv

/-- R143 item 4, R161: the level in the mailbox stays the level of the line, and each captured level is the complement of the level
before. -/
def Obligations.MailboxLevelIsTheLineLevel : Prop :=
  (∀ s t : State, s.obs.level = s.line → step s = .next t → t.obs.level = t.line) ∧
  ∀ (s t : State) (l : Level), exec (.cap l) s = .next t → t.obs.level = !s.line

/-- R30 to R47: which operations write each cell. -/
def Obligations.EachCellHasItsWriters : Prop :=
  ∀ (i : Instr) (s t : State), exec i s = .next t →
    (t.line ≠ s.line ∨ t.obs ≠ s.obs → ∃ l, i = .cap l) ∧
    (t.tcnt ≠ s.tcnt → i = .tmrInc ∨ ∃ l, i = .cap l) ∧
    (t.bw ≠ s.bw → i = .startRise) ∧
    (t.acc ≠ s.acc → i = .startRise ∨ (∃ l, i = .dataEdge l) ∨ ∃ b, i = .shift b) ∧
    (t.cur ≠ s.cur → (∃ l, i = .dataEdge l) ∨ (∃ b, i = .shift b) ∨ i = .append) ∧
    (t.ring ≠ s.ring → (∃ l, i = .dataEdge l) ∨ (∃ b, i = .shift b) ∨ i = .append ∨ i = .clear) ∧
    (t.disp ≠ s.disp → i ∈ [Instr.copy0, .copy1, .copy2, .copy3, .copy4, .copy5, .copy6, .copy7]) ∧
    (t.row ≠ s.row → i = .tick ∨ i = .tAdv) ∧
    (t.col ≠ s.col → i = .tick ∨ i = .tCols) ∧
    (t.rowsel ≠ s.rowsel → i = .tick ∨ i = .tBlank ∨ i = .tSelect) ∧
    (t.last ≠ s.last → i ∈ [Instr.idleFall, .idleRise, .startFall, .startRise, .dataFault] ∨ ∃ l, i = .dataEdge l)

/-- R49, R235: an operation writes no cell that its agent does not own. -/
def Obligations.AgentsWriteOnlyTheirCells : Prop :=
  ∀ (i : Instr) (s t : State), exec i s = .next t →
    s.sameOutside t ∧
    (i.agent = .env → t.line = s.line ∧ t.obs = s.obs) ∧
    (i.agent ≠ .env → i.agent ≠ .edgeCapture → s.sameInput t) ∧
    (i.agent ≠ .foreground → s.sameForeground t ∧ t.disp = s.disp) ∧
    (i.agent ≠ .displayScanner → s.sameScanner t)

/-- R47, R220: only `DATA.FAULT` sets `fault`, in `Data`, on a changed observation, with `bw = 0`, and no operation clears it. -/
def Obligations.OnlyDataFaultRaises : Prop :=
  ∀ (i : Instr) (s t : State), exec i s = .next t →
    (s.fault = true → t.fault = true) ∧
    (s.fault = false → t.fault = true →
      i = .dataFault ∧ s.st = 2#2 ∧ s.bw = 0#16 ∧ s.obs ≠ s.last ∧ t = { s with last := s.obs, fault := true })

/-- R221: the fault is sticky over every run, and with it no cell of the foreground and no row of the display ever changes again. A
foreground trigger after the fault runs the model's `HALT` (notes/assumptions/8.md). -/
def Obligations.FaultIsSticky : Prop :=
  ∀ (s t : State) (stimulus : List Trigger), s.running → s.fault = true → afterStimulus stimulus s = .next t →
    t.fault = true ∧ s.sameForeground t ∧ t.disp = s.disp

/-- R121, R16: from every state with a legal `st` and `fg`, `RUN` is `FG` repeated until the first `POLL.NOP` or `HALT`, which comes
after at most ten others, and it ends quiescent or with the fault. That the `HALT` which ends it is a step is the model's choice
(notes/assumptions/8.md); no `RUN` reaches the bound of its definition (20.md). -/
def Obligations.ForegroundReachesQuiescence : Prop :=
  ∀ s : State, s.running → s.st ≠ 3#2 → s.fg.toNat ≤ 9 →
    ∃ (k : Nat) (t : State), k ≤ 10 ∧
      (∀ j, j < k → ∃ (v : State) (i : Instr), afterStimulus (List.replicate j .foreground) s = .next v ∧
        decodeTop (selector .foreground v) = .ok i ∧ i ≠ .pollNop ∧ i ≠ .halt) ∧
      (∃ (u : State) (i : Instr), afterStimulus (List.replicate k .foreground) s = .next u ∧
        decodeTop (selector .foreground u) = .ok i ∧ (i = .pollNop ∨ i = .halt)) ∧
      Statement.run.triggers s = List.replicate (k + 1) .foreground ∧
      runProgram [.run] s = .next t ∧ (t.quiescent = true ∨ t.fault = true)

/-! ## The signal (30_encoding.md R100 to R107) -/

/-- R106: the edges of a byte begin `(0, G), (1, W)`, alternate, end high, and after the first span `10 + S` bit periods. -/
def Obligations.EdgeListOfAByte : Prop :=
  ∀ (d : Byte) (width stops gap : Nat), 1 ≤ stops →
    ∃ rest : List (Level × Nat), tx d width stops gap = (false, gap) :: (true, width) :: rest ∧
      (∃ e, rest.getLast? = some e ∧ e.1 = true) ∧
      ((tx d width stops gap).map Prod.fst).IsChain (· ≠ ·) ∧
      ((true, width) :: rest).foldl (fun n e => n + e.2) 0 = width * (10 + stops)

/-- R107: the observation word. -/
def Obligations.ObservationWord : Prop :=
  (∀ o : Observation, o.word.toNat = (if o.level then 2 ^ Config.timerWidth else 0) + o.interval.toNat) ∧
  Observation.word ⟨true, 300#16⟩ = 0x1012C#17 ∧ Observation.word ⟨false, 2700#16⟩ = 0x00A8C#17

/-- R100 to R106, the source's property T4: every byte, sent at any bit width from 2 ticks on whose longest run the timer can measure,
with any number of stop periods and any idle gap before it, is received: it is appended to the ring, and the decoder is back in
`Idle`. If the byte completes a frame in the window, the frame is published and the ring cleared. -/
def Obligations.ByteRoundTrip : Prop :=
  ∀ (s : State) (d : Byte) (width stops gap : Nat), s.running → s.fault = false → s.fg = 0#4 → s.st = 0#2 →
    s.obs = s.last → s.line = true → s.obs.level = true →
    2 ≤ width → 1 ≤ stops → (8 + stops) * width < 2 ^ Config.timerWidth →
    ∃ t, runProgram (byteProgram d width stops gap) s = .next t ∧
      t.cur.val = (s.cur.val + 1) % 11 ∧ t.st = 0#2 ∧ t.fg = 0#4 ∧ t.fault = false ∧ t.obs = t.last ∧ t.line = true ∧
      t.obs.level = true ∧ t.bw = BitVec.ofNat Config.timerWidth width ∧ t.acc = ⟨(d <<< 1) ||| 1#8, 10#4⟩ ∧ s.sameScanner t ∧
      ((s.appendByte d).fg = 0#4 → t.ring = s.ring.write s.cur.val d ∧ t.disp = s.disp) ∧
      ((s.appendByte d).fg ≠ 0#4 →
        (∀ j : Fin 11, t.ringRead j = 0x00#8) ∧ ∀ i : Fin 8, t.dispRead i = (s.appendByte d).win (2 + i.val))

/-- R108, R121 and R189, the source's properties T1, T2, T3 and T5 on the wire: a frame sent after any noise, the ring in any rotation,
is published exactly when its checksum byte is complete: until then `disp` is as before, then it is the payload and the ring is all
zero. With another last byte `disp` stays as it was and the bytes stay in the ring. The premise is T2's: no window before the last
byte is a frame by accident. It holds of a zeroed ring without noise, and `FRAME` is the case of one stop period and a gap of 1000. -/
def Obligations.FrameRoundTrip : Prop :=
  (∀ (s : State) (payload noise : List Byte) (width stops gap : Nat), payload.length = 8 →
    s.running → s.fault = false → s.fg = 0#4 → s.st = 0#2 → s.obs = s.last → s.line = true → s.obs.level = true →
    2 ≤ width → 1 ≤ stops → (8 + stops) * width < 2 ^ Config.timerWidth →
    ((noise ++ [0x55#8, 0xAA#8] ++ payload).foldl State.appendByte s).fg = 0#4 →
    (∃ t, runProgram (bytesProgram width stops gap (noise ++ [0x55#8, 0xAA#8] ++ payload)) s = .next t ∧ t.disp = s.disp) ∧
    (∃ t, runProgram (bytesProgram width stops gap (noise ++ frameBytes payload)) s = .next t ∧
      (∀ i : Fin 8, t.dispRead i = payload.getD i.val 0x00#8) ∧ (∀ j : Fin 11, t.ringRead j = 0x00#8) ∧
      t.cur.val = (s.cur.val + noise.length) % 11 ∧ t.st = 0#2 ∧ t.fg = 0#4 ∧ t.fault = false ∧ t.obs = t.last ∧ t.line = true) ∧
    ∀ c : Byte, c ≠ payloadChecksum payload →
      ∃ t, runProgram (bytesProgram width stops gap (noise ++ [0x55#8, 0xAA#8] ++ payload ++ [c])) s = .next t ∧
        t.disp = s.disp ∧ (∀ k, k < 11 → t.win k = ([0x55#8, 0xAA#8] ++ payload ++ [c]).getD k 0x00#8) ∧
        t.st = 0#2 ∧ t.fg = 0#4 ∧ t.fault = false) ∧
  (∀ (s : State) (payload : List Byte), payload.length = 8 → s.fg = 0#4 → (∀ j : Fin 11, s.ringRead j = 0x00#8) →
    (([0x55#8, 0xAA#8] ++ payload).foldl State.appendByte s).fg = 0#4) ∧
  ∀ (payload : List Byte) (width : Nat), frameProgram payload width = bytesProgram width 1 1000 (frameBytes payload)
end

