-- ==== Sys2Proof/Laws/Decode.lean ====
section
/-!
SUPPORT. The rows of each selector table exclude one another (spec/30_encoding.md R113), so that a word decodes to an operation exactly
when some row covers it and builds that operation.
-/

namespace Sys2Proof

/-- Two rows fix some common bit differently. -/
abbrev SelRow.excludes {n : Nat} (r r' : SelRow n) : Prop := r.value &&& r'.mask ≠ r'.value &&& r.mask

theorem SelRow.covers_iff {n : Nat} (r : SelRow n) (w : BitVec n) : r.covers w = true ↔ w &&& r.mask = r.value := by
  simp [SelRow.covers]

/-- Rows that fix a common bit differently cover no common word. -/
theorem SelRow.not_both {n : Nat} {r r' : SelRow n} (h : r.excludes r') {w : BitVec n} (hr : r.covers w = true) :
    r'.covers w = false := by
  rw [Bool.eq_false_iff]
  intro hr'
  rw [SelRow.covers_iff] at hr hr'
  apply h
  rw [← hr, ← hr']
  rw [BitVec.and_assoc, BitVec.and_assoc, BitVec.and_comm r.mask]

theorem lookup_some {n : Nat} {w : BitVec n} {i : Instr} {rows : List (SelRow n)} (h : lookup w rows = some i) :
    ∃ r ∈ rows, r.covers w = true ∧ r.build w = i := by
  induction rows with
  | nil => simp [lookup] at h
  | cons r rows ih =>
    simp only [lookup] at h
    split at h
    · next hr => exact ⟨r, by simp, hr, by simpa using h⟩
    · obtain ⟨r', hm, hc⟩ := ih h
      exact ⟨r', by simp [hm], hc⟩

/-- In a table of rows that exclude one another, a word is of the row that covers it. -/
theorem lookup_iff {n : Nat} {w : BitVec n} {i : Instr} {rows : List (SelRow n)} (hp : rows.Pairwise SelRow.excludes) :
    lookup w rows = some i ↔ ∃ r ∈ rows, r.covers w = true ∧ r.build w = i := by
  refine ⟨lookup_some, ?_⟩
  induction rows with
  | nil => simp
  | cons r rows ih =>
    rintro ⟨r', hm, hc, hb⟩
    rw [List.pairwise_cons] at hp
    simp only [lookup]
    rcases List.mem_cons.1 hm with rfl | hm'
    · simp [hc, hb]
    · have hr : r.covers w = false := by
        rw [Bool.eq_false_iff]
        intro hr
        simp [SelRow.not_both (hp.1 r' hm') hr] at hc
      simp only [hr, Bool.false_eq_true, if_false]
      exact ih hp.2 ⟨r', hm', hc, hb⟩

theorem lookup_none_iff {n : Nat} {w : BitVec n} {rows : List (SelRow n)} :
    lookup w rows = none ↔ ∀ r ∈ rows, r.covers w = false := by
  induction rows with
  | nil => simp [lookup]
  | cons r rows ih => cases h : r.covers w <;> simp [lookup, ih, h]

theorem topTable_rows_exclude : topTable.Pairwise SelRow.excludes := by decide

theorem subTable_rows_exclude : subTable.Pairwise SelRow.excludes := by decide

/-- What a top-level selector decodes to: the operation of the row that covers it. -/
theorem decodeTop_ok_iff {w : BitVec 12} {i : Instr} :
    decodeTop w = .ok i ↔ ∃ r ∈ topTable, r.covers w = true ∧ r.build w = i := by
  rw [← lookup_iff topTable_rows_exclude, decodeTop]
  split <;> simp_all

/-- What a sub-operation selector decodes to: the operation of the row that covers it. -/
theorem decodeSub_ok_iff {w : BitVec 8} {i : Instr} :
    decodeSub w = .ok i ↔ ∃ r ∈ subTable, r.covers w = true ∧ r.build w = i := by
  rw [← lookup_iff subTable_rows_exclude, decodeSub]
  split <;> simp_all

theorem decodeTop_error_iff {w : BitVec 12} {e : DecodeError} :
    decodeTop w = .error e ↔ e = .noTopRow ∧ ∀ r ∈ topTable, r.covers w = false := by
  rw [← lookup_none_iff, decodeTop]
  cases h : lookup w topTable <;> simp [eq_comm]

theorem decodeSub_error_iff {w : BitVec 8} {e : DecodeError} :
    decodeSub w = .error e ↔ e = .noSubRow ∧ ∀ r ∈ subTable, r.covers w = false := by
  rw [← lookup_none_iff, decodeSub]
  cases h : lookup w subTable <;> simp [eq_comm]

end Sys2Proof
end

