-- ==== Sys2Proof/Laws/State.lean ====
section
/-!
SUPPORT. One lemma for each field of State and each update of Machine/Ops.lean: the updated field reads the new value, every other
field reads as before. And two states with equal fields are equal.
-/

namespace Sys2Proof.Machine

@[simp] theorem State.setLine_line (s : State) (v : Level) : (s.setLine v).line = v := rfl
@[simp] theorem State.setLine_tcnt (s : State) (v : Level) : (s.setLine v).tcnt = s.tcnt := rfl
@[simp] theorem State.setLine_obs (s : State) (v : Level) : (s.setLine v).obs = s.obs := rfl
@[simp] theorem State.setLine_last (s : State) (v : Level) : (s.setLine v).last = s.last := rfl
@[simp] theorem State.setLine_st (s : State) (v : Level) : (s.setLine v).st = s.st := rfl
@[simp] theorem State.setLine_bw (s : State) (v : Level) : (s.setLine v).bw = s.bw := rfl
@[simp] theorem State.setLine_acc (s : State) (v : Level) : (s.setLine v).acc = s.acc := rfl
@[simp] theorem State.setLine_ring (s : State) (v : Level) : (s.setLine v).ring = s.ring := rfl
@[simp] theorem State.setLine_cur (s : State) (v : Level) : (s.setLine v).cur = s.cur := rfl
@[simp] theorem State.setLine_disp (s : State) (v : Level) : (s.setLine v).disp = s.disp := rfl
@[simp] theorem State.setLine_fg (s : State) (v : Level) : (s.setLine v).fg = s.fg := rfl
@[simp] theorem State.setLine_fault (s : State) (v : Level) : (s.setLine v).fault = s.fault := rfl
@[simp] theorem State.setLine_row (s : State) (v : Level) : (s.setLine v).row = s.row := rfl
@[simp] theorem State.setLine_col (s : State) (v : Level) : (s.setLine v).col = s.col := rfl
@[simp] theorem State.setLine_rowsel (s : State) (v : Level) : (s.setLine v).rowsel = s.rowsel := rfl
@[simp] theorem State.setLine_cfg (s : State) (v : Level) : (s.setLine v).cfg = s.cfg := rfl
@[simp] theorem State.setLine_schedule (s : State) (v : Level) : (s.setLine v).schedule = s.schedule := rfl
@[simp] theorem State.setLine_subSel (s : State) (v : Level) : (s.setLine v).subSel = s.subSel := rfl

@[simp] theorem State.setTcnt_line (s : State) (v : Interval) : (s.setTcnt v).line = s.line := rfl
@[simp] theorem State.setTcnt_tcnt (s : State) (v : Interval) : (s.setTcnt v).tcnt = v := rfl
@[simp] theorem State.setTcnt_obs (s : State) (v : Interval) : (s.setTcnt v).obs = s.obs := rfl
@[simp] theorem State.setTcnt_last (s : State) (v : Interval) : (s.setTcnt v).last = s.last := rfl
@[simp] theorem State.setTcnt_st (s : State) (v : Interval) : (s.setTcnt v).st = s.st := rfl
@[simp] theorem State.setTcnt_bw (s : State) (v : Interval) : (s.setTcnt v).bw = s.bw := rfl
@[simp] theorem State.setTcnt_acc (s : State) (v : Interval) : (s.setTcnt v).acc = s.acc := rfl
@[simp] theorem State.setTcnt_ring (s : State) (v : Interval) : (s.setTcnt v).ring = s.ring := rfl
@[simp] theorem State.setTcnt_cur (s : State) (v : Interval) : (s.setTcnt v).cur = s.cur := rfl
@[simp] theorem State.setTcnt_disp (s : State) (v : Interval) : (s.setTcnt v).disp = s.disp := rfl
@[simp] theorem State.setTcnt_fg (s : State) (v : Interval) : (s.setTcnt v).fg = s.fg := rfl
@[simp] theorem State.setTcnt_fault (s : State) (v : Interval) : (s.setTcnt v).fault = s.fault := rfl
@[simp] theorem State.setTcnt_row (s : State) (v : Interval) : (s.setTcnt v).row = s.row := rfl
@[simp] theorem State.setTcnt_col (s : State) (v : Interval) : (s.setTcnt v).col = s.col := rfl
@[simp] theorem State.setTcnt_rowsel (s : State) (v : Interval) : (s.setTcnt v).rowsel = s.rowsel := rfl
@[simp] theorem State.setTcnt_cfg (s : State) (v : Interval) : (s.setTcnt v).cfg = s.cfg := rfl
@[simp] theorem State.setTcnt_schedule (s : State) (v : Interval) : (s.setTcnt v).schedule = s.schedule := rfl
@[simp] theorem State.setTcnt_subSel (s : State) (v : Interval) : (s.setTcnt v).subSel = s.subSel := rfl

@[simp] theorem State.setObs_line (s : State) (v : Observation) : (s.setObs v).line = s.line := rfl
@[simp] theorem State.setObs_tcnt (s : State) (v : Observation) : (s.setObs v).tcnt = s.tcnt := rfl
@[simp] theorem State.setObs_obs (s : State) (v : Observation) : (s.setObs v).obs = v := rfl
@[simp] theorem State.setObs_last (s : State) (v : Observation) : (s.setObs v).last = s.last := rfl
@[simp] theorem State.setObs_st (s : State) (v : Observation) : (s.setObs v).st = s.st := rfl
@[simp] theorem State.setObs_bw (s : State) (v : Observation) : (s.setObs v).bw = s.bw := rfl
@[simp] theorem State.setObs_acc (s : State) (v : Observation) : (s.setObs v).acc = s.acc := rfl
@[simp] theorem State.setObs_ring (s : State) (v : Observation) : (s.setObs v).ring = s.ring := rfl
@[simp] theorem State.setObs_cur (s : State) (v : Observation) : (s.setObs v).cur = s.cur := rfl
@[simp] theorem State.setObs_disp (s : State) (v : Observation) : (s.setObs v).disp = s.disp := rfl
@[simp] theorem State.setObs_fg (s : State) (v : Observation) : (s.setObs v).fg = s.fg := rfl
@[simp] theorem State.setObs_fault (s : State) (v : Observation) : (s.setObs v).fault = s.fault := rfl
@[simp] theorem State.setObs_row (s : State) (v : Observation) : (s.setObs v).row = s.row := rfl
@[simp] theorem State.setObs_col (s : State) (v : Observation) : (s.setObs v).col = s.col := rfl
@[simp] theorem State.setObs_rowsel (s : State) (v : Observation) : (s.setObs v).rowsel = s.rowsel := rfl
@[simp] theorem State.setObs_cfg (s : State) (v : Observation) : (s.setObs v).cfg = s.cfg := rfl
@[simp] theorem State.setObs_schedule (s : State) (v : Observation) : (s.setObs v).schedule = s.schedule := rfl
@[simp] theorem State.setObs_subSel (s : State) (v : Observation) : (s.setObs v).subSel = s.subSel := rfl

@[simp] theorem State.setLast_line (s : State) (v : Observation) : (s.setLast v).line = s.line := rfl
@[simp] theorem State.setLast_tcnt (s : State) (v : Observation) : (s.setLast v).tcnt = s.tcnt := rfl
@[simp] theorem State.setLast_obs (s : State) (v : Observation) : (s.setLast v).obs = s.obs := rfl
@[simp] theorem State.setLast_last (s : State) (v : Observation) : (s.setLast v).last = v := rfl
@[simp] theorem State.setLast_st (s : State) (v : Observation) : (s.setLast v).st = s.st := rfl
@[simp] theorem State.setLast_bw (s : State) (v : Observation) : (s.setLast v).bw = s.bw := rfl
@[simp] theorem State.setLast_acc (s : State) (v : Observation) : (s.setLast v).acc = s.acc := rfl
@[simp] theorem State.setLast_ring (s : State) (v : Observation) : (s.setLast v).ring = s.ring := rfl
@[simp] theorem State.setLast_cur (s : State) (v : Observation) : (s.setLast v).cur = s.cur := rfl
@[simp] theorem State.setLast_disp (s : State) (v : Observation) : (s.setLast v).disp = s.disp := rfl
@[simp] theorem State.setLast_fg (s : State) (v : Observation) : (s.setLast v).fg = s.fg := rfl
@[simp] theorem State.setLast_fault (s : State) (v : Observation) : (s.setLast v).fault = s.fault := rfl
@[simp] theorem State.setLast_row (s : State) (v : Observation) : (s.setLast v).row = s.row := rfl
@[simp] theorem State.setLast_col (s : State) (v : Observation) : (s.setLast v).col = s.col := rfl
@[simp] theorem State.setLast_rowsel (s : State) (v : Observation) : (s.setLast v).rowsel = s.rowsel := rfl
@[simp] theorem State.setLast_cfg (s : State) (v : Observation) : (s.setLast v).cfg = s.cfg := rfl
@[simp] theorem State.setLast_schedule (s : State) (v : Observation) : (s.setLast v).schedule = s.schedule := rfl
@[simp] theorem State.setLast_subSel (s : State) (v : Observation) : (s.setLast v).subSel = s.subSel := rfl

@[simp] theorem State.setSt_line (s : State) (v : BitVec 2) : (s.setSt v).line = s.line := rfl
@[simp] theorem State.setSt_tcnt (s : State) (v : BitVec 2) : (s.setSt v).tcnt = s.tcnt := rfl
@[simp] theorem State.setSt_obs (s : State) (v : BitVec 2) : (s.setSt v).obs = s.obs := rfl
@[simp] theorem State.setSt_last (s : State) (v : BitVec 2) : (s.setSt v).last = s.last := rfl
@[simp] theorem State.setSt_st (s : State) (v : BitVec 2) : (s.setSt v).st = v := rfl
@[simp] theorem State.setSt_bw (s : State) (v : BitVec 2) : (s.setSt v).bw = s.bw := rfl
@[simp] theorem State.setSt_acc (s : State) (v : BitVec 2) : (s.setSt v).acc = s.acc := rfl
@[simp] theorem State.setSt_ring (s : State) (v : BitVec 2) : (s.setSt v).ring = s.ring := rfl
@[simp] theorem State.setSt_cur (s : State) (v : BitVec 2) : (s.setSt v).cur = s.cur := rfl
@[simp] theorem State.setSt_disp (s : State) (v : BitVec 2) : (s.setSt v).disp = s.disp := rfl
@[simp] theorem State.setSt_fg (s : State) (v : BitVec 2) : (s.setSt v).fg = s.fg := rfl
@[simp] theorem State.setSt_fault (s : State) (v : BitVec 2) : (s.setSt v).fault = s.fault := rfl
@[simp] theorem State.setSt_row (s : State) (v : BitVec 2) : (s.setSt v).row = s.row := rfl
@[simp] theorem State.setSt_col (s : State) (v : BitVec 2) : (s.setSt v).col = s.col := rfl
@[simp] theorem State.setSt_rowsel (s : State) (v : BitVec 2) : (s.setSt v).rowsel = s.rowsel := rfl
@[simp] theorem State.setSt_cfg (s : State) (v : BitVec 2) : (s.setSt v).cfg = s.cfg := rfl
@[simp] theorem State.setSt_schedule (s : State) (v : BitVec 2) : (s.setSt v).schedule = s.schedule := rfl
@[simp] theorem State.setSt_subSel (s : State) (v : BitVec 2) : (s.setSt v).subSel = s.subSel := rfl

@[simp] theorem State.setBw_line (s : State) (v : Interval) : (s.setBw v).line = s.line := rfl
@[simp] theorem State.setBw_tcnt (s : State) (v : Interval) : (s.setBw v).tcnt = s.tcnt := rfl
@[simp] theorem State.setBw_obs (s : State) (v : Interval) : (s.setBw v).obs = s.obs := rfl
@[simp] theorem State.setBw_last (s : State) (v : Interval) : (s.setBw v).last = s.last := rfl
@[simp] theorem State.setBw_st (s : State) (v : Interval) : (s.setBw v).st = s.st := rfl
@[simp] theorem State.setBw_bw (s : State) (v : Interval) : (s.setBw v).bw = v := rfl
@[simp] theorem State.setBw_acc (s : State) (v : Interval) : (s.setBw v).acc = s.acc := rfl
@[simp] theorem State.setBw_ring (s : State) (v : Interval) : (s.setBw v).ring = s.ring := rfl
@[simp] theorem State.setBw_cur (s : State) (v : Interval) : (s.setBw v).cur = s.cur := rfl
@[simp] theorem State.setBw_disp (s : State) (v : Interval) : (s.setBw v).disp = s.disp := rfl
@[simp] theorem State.setBw_fg (s : State) (v : Interval) : (s.setBw v).fg = s.fg := rfl
@[simp] theorem State.setBw_fault (s : State) (v : Interval) : (s.setBw v).fault = s.fault := rfl
@[simp] theorem State.setBw_row (s : State) (v : Interval) : (s.setBw v).row = s.row := rfl
@[simp] theorem State.setBw_col (s : State) (v : Interval) : (s.setBw v).col = s.col := rfl
@[simp] theorem State.setBw_rowsel (s : State) (v : Interval) : (s.setBw v).rowsel = s.rowsel := rfl
@[simp] theorem State.setBw_cfg (s : State) (v : Interval) : (s.setBw v).cfg = s.cfg := rfl
@[simp] theorem State.setBw_schedule (s : State) (v : Interval) : (s.setBw v).schedule = s.schedule := rfl
@[simp] theorem State.setBw_subSel (s : State) (v : Interval) : (s.setBw v).subSel = s.subSel := rfl

@[simp] theorem State.setAcc_line (s : State) (v : Accumulator) : (s.setAcc v).line = s.line := rfl
@[simp] theorem State.setAcc_tcnt (s : State) (v : Accumulator) : (s.setAcc v).tcnt = s.tcnt := rfl
@[simp] theorem State.setAcc_obs (s : State) (v : Accumulator) : (s.setAcc v).obs = s.obs := rfl
@[simp] theorem State.setAcc_last (s : State) (v : Accumulator) : (s.setAcc v).last = s.last := rfl
@[simp] theorem State.setAcc_st (s : State) (v : Accumulator) : (s.setAcc v).st = s.st := rfl
@[simp] theorem State.setAcc_bw (s : State) (v : Accumulator) : (s.setAcc v).bw = s.bw := rfl
@[simp] theorem State.setAcc_acc (s : State) (v : Accumulator) : (s.setAcc v).acc = v := rfl
@[simp] theorem State.setAcc_ring (s : State) (v : Accumulator) : (s.setAcc v).ring = s.ring := rfl
@[simp] theorem State.setAcc_cur (s : State) (v : Accumulator) : (s.setAcc v).cur = s.cur := rfl
@[simp] theorem State.setAcc_disp (s : State) (v : Accumulator) : (s.setAcc v).disp = s.disp := rfl
@[simp] theorem State.setAcc_fg (s : State) (v : Accumulator) : (s.setAcc v).fg = s.fg := rfl
@[simp] theorem State.setAcc_fault (s : State) (v : Accumulator) : (s.setAcc v).fault = s.fault := rfl
@[simp] theorem State.setAcc_row (s : State) (v : Accumulator) : (s.setAcc v).row = s.row := rfl
@[simp] theorem State.setAcc_col (s : State) (v : Accumulator) : (s.setAcc v).col = s.col := rfl
@[simp] theorem State.setAcc_rowsel (s : State) (v : Accumulator) : (s.setAcc v).rowsel = s.rowsel := rfl
@[simp] theorem State.setAcc_cfg (s : State) (v : Accumulator) : (s.setAcc v).cfg = s.cfg := rfl
@[simp] theorem State.setAcc_schedule (s : State) (v : Accumulator) : (s.setAcc v).schedule = s.schedule := rfl
@[simp] theorem State.setAcc_subSel (s : State) (v : Accumulator) : (s.setAcc v).subSel = s.subSel := rfl

@[simp] theorem State.setRing_line (s : State) (v : Memory) : (s.setRing v).line = s.line := rfl
@[simp] theorem State.setRing_tcnt (s : State) (v : Memory) : (s.setRing v).tcnt = s.tcnt := rfl
@[simp] theorem State.setRing_obs (s : State) (v : Memory) : (s.setRing v).obs = s.obs := rfl
@[simp] theorem State.setRing_last (s : State) (v : Memory) : (s.setRing v).last = s.last := rfl
@[simp] theorem State.setRing_st (s : State) (v : Memory) : (s.setRing v).st = s.st := rfl
@[simp] theorem State.setRing_bw (s : State) (v : Memory) : (s.setRing v).bw = s.bw := rfl
@[simp] theorem State.setRing_acc (s : State) (v : Memory) : (s.setRing v).acc = s.acc := rfl
@[simp] theorem State.setRing_ring (s : State) (v : Memory) : (s.setRing v).ring = v := rfl
@[simp] theorem State.setRing_cur (s : State) (v : Memory) : (s.setRing v).cur = s.cur := rfl
@[simp] theorem State.setRing_disp (s : State) (v : Memory) : (s.setRing v).disp = s.disp := rfl
@[simp] theorem State.setRing_fg (s : State) (v : Memory) : (s.setRing v).fg = s.fg := rfl
@[simp] theorem State.setRing_fault (s : State) (v : Memory) : (s.setRing v).fault = s.fault := rfl
@[simp] theorem State.setRing_row (s : State) (v : Memory) : (s.setRing v).row = s.row := rfl
@[simp] theorem State.setRing_col (s : State) (v : Memory) : (s.setRing v).col = s.col := rfl
@[simp] theorem State.setRing_rowsel (s : State) (v : Memory) : (s.setRing v).rowsel = s.rowsel := rfl
@[simp] theorem State.setRing_cfg (s : State) (v : Memory) : (s.setRing v).cfg = s.cfg := rfl
@[simp] theorem State.setRing_schedule (s : State) (v : Memory) : (s.setRing v).schedule = s.schedule := rfl
@[simp] theorem State.setRing_subSel (s : State) (v : Memory) : (s.setRing v).subSel = s.subSel := rfl

@[simp] theorem State.setCur_line (s : State) (v : Fin 11) : (s.setCur v).line = s.line := rfl
@[simp] theorem State.setCur_tcnt (s : State) (v : Fin 11) : (s.setCur v).tcnt = s.tcnt := rfl
@[simp] theorem State.setCur_obs (s : State) (v : Fin 11) : (s.setCur v).obs = s.obs := rfl
@[simp] theorem State.setCur_last (s : State) (v : Fin 11) : (s.setCur v).last = s.last := rfl
@[simp] theorem State.setCur_st (s : State) (v : Fin 11) : (s.setCur v).st = s.st := rfl
@[simp] theorem State.setCur_bw (s : State) (v : Fin 11) : (s.setCur v).bw = s.bw := rfl
@[simp] theorem State.setCur_acc (s : State) (v : Fin 11) : (s.setCur v).acc = s.acc := rfl
@[simp] theorem State.setCur_ring (s : State) (v : Fin 11) : (s.setCur v).ring = s.ring := rfl
@[simp] theorem State.setCur_cur (s : State) (v : Fin 11) : (s.setCur v).cur = v := rfl
@[simp] theorem State.setCur_disp (s : State) (v : Fin 11) : (s.setCur v).disp = s.disp := rfl
@[simp] theorem State.setCur_fg (s : State) (v : Fin 11) : (s.setCur v).fg = s.fg := rfl
@[simp] theorem State.setCur_fault (s : State) (v : Fin 11) : (s.setCur v).fault = s.fault := rfl
@[simp] theorem State.setCur_row (s : State) (v : Fin 11) : (s.setCur v).row = s.row := rfl
@[simp] theorem State.setCur_col (s : State) (v : Fin 11) : (s.setCur v).col = s.col := rfl
@[simp] theorem State.setCur_rowsel (s : State) (v : Fin 11) : (s.setCur v).rowsel = s.rowsel := rfl
@[simp] theorem State.setCur_cfg (s : State) (v : Fin 11) : (s.setCur v).cfg = s.cfg := rfl
@[simp] theorem State.setCur_schedule (s : State) (v : Fin 11) : (s.setCur v).schedule = s.schedule := rfl
@[simp] theorem State.setCur_subSel (s : State) (v : Fin 11) : (s.setCur v).subSel = s.subSel := rfl

@[simp] theorem State.setDisp_line (s : State) (v : Memory) : (s.setDisp v).line = s.line := rfl
@[simp] theorem State.setDisp_tcnt (s : State) (v : Memory) : (s.setDisp v).tcnt = s.tcnt := rfl
@[simp] theorem State.setDisp_obs (s : State) (v : Memory) : (s.setDisp v).obs = s.obs := rfl
@[simp] theorem State.setDisp_last (s : State) (v : Memory) : (s.setDisp v).last = s.last := rfl
@[simp] theorem State.setDisp_st (s : State) (v : Memory) : (s.setDisp v).st = s.st := rfl
@[simp] theorem State.setDisp_bw (s : State) (v : Memory) : (s.setDisp v).bw = s.bw := rfl
@[simp] theorem State.setDisp_acc (s : State) (v : Memory) : (s.setDisp v).acc = s.acc := rfl
@[simp] theorem State.setDisp_ring (s : State) (v : Memory) : (s.setDisp v).ring = s.ring := rfl
@[simp] theorem State.setDisp_cur (s : State) (v : Memory) : (s.setDisp v).cur = s.cur := rfl
@[simp] theorem State.setDisp_disp (s : State) (v : Memory) : (s.setDisp v).disp = v := rfl
@[simp] theorem State.setDisp_fg (s : State) (v : Memory) : (s.setDisp v).fg = s.fg := rfl
@[simp] theorem State.setDisp_fault (s : State) (v : Memory) : (s.setDisp v).fault = s.fault := rfl
@[simp] theorem State.setDisp_row (s : State) (v : Memory) : (s.setDisp v).row = s.row := rfl
@[simp] theorem State.setDisp_col (s : State) (v : Memory) : (s.setDisp v).col = s.col := rfl
@[simp] theorem State.setDisp_rowsel (s : State) (v : Memory) : (s.setDisp v).rowsel = s.rowsel := rfl
@[simp] theorem State.setDisp_cfg (s : State) (v : Memory) : (s.setDisp v).cfg = s.cfg := rfl
@[simp] theorem State.setDisp_schedule (s : State) (v : Memory) : (s.setDisp v).schedule = s.schedule := rfl
@[simp] theorem State.setDisp_subSel (s : State) (v : Memory) : (s.setDisp v).subSel = s.subSel := rfl

@[simp] theorem State.setFg_line (s : State) (v : BitVec 4) : (s.setFg v).line = s.line := rfl
@[simp] theorem State.setFg_tcnt (s : State) (v : BitVec 4) : (s.setFg v).tcnt = s.tcnt := rfl
@[simp] theorem State.setFg_obs (s : State) (v : BitVec 4) : (s.setFg v).obs = s.obs := rfl
@[simp] theorem State.setFg_last (s : State) (v : BitVec 4) : (s.setFg v).last = s.last := rfl
@[simp] theorem State.setFg_st (s : State) (v : BitVec 4) : (s.setFg v).st = s.st := rfl
@[simp] theorem State.setFg_bw (s : State) (v : BitVec 4) : (s.setFg v).bw = s.bw := rfl
@[simp] theorem State.setFg_acc (s : State) (v : BitVec 4) : (s.setFg v).acc = s.acc := rfl
@[simp] theorem State.setFg_ring (s : State) (v : BitVec 4) : (s.setFg v).ring = s.ring := rfl
@[simp] theorem State.setFg_cur (s : State) (v : BitVec 4) : (s.setFg v).cur = s.cur := rfl
@[simp] theorem State.setFg_disp (s : State) (v : BitVec 4) : (s.setFg v).disp = s.disp := rfl
@[simp] theorem State.setFg_fg (s : State) (v : BitVec 4) : (s.setFg v).fg = v := rfl
@[simp] theorem State.setFg_fault (s : State) (v : BitVec 4) : (s.setFg v).fault = s.fault := rfl
@[simp] theorem State.setFg_row (s : State) (v : BitVec 4) : (s.setFg v).row = s.row := rfl
@[simp] theorem State.setFg_col (s : State) (v : BitVec 4) : (s.setFg v).col = s.col := rfl
@[simp] theorem State.setFg_rowsel (s : State) (v : BitVec 4) : (s.setFg v).rowsel = s.rowsel := rfl
@[simp] theorem State.setFg_cfg (s : State) (v : BitVec 4) : (s.setFg v).cfg = s.cfg := rfl
@[simp] theorem State.setFg_schedule (s : State) (v : BitVec 4) : (s.setFg v).schedule = s.schedule := rfl
@[simp] theorem State.setFg_subSel (s : State) (v : BitVec 4) : (s.setFg v).subSel = s.subSel := rfl

@[simp] theorem State.setFault_line (s : State) (v : Bool) : (s.setFault v).line = s.line := rfl
@[simp] theorem State.setFault_tcnt (s : State) (v : Bool) : (s.setFault v).tcnt = s.tcnt := rfl
@[simp] theorem State.setFault_obs (s : State) (v : Bool) : (s.setFault v).obs = s.obs := rfl
@[simp] theorem State.setFault_last (s : State) (v : Bool) : (s.setFault v).last = s.last := rfl
@[simp] theorem State.setFault_st (s : State) (v : Bool) : (s.setFault v).st = s.st := rfl
@[simp] theorem State.setFault_bw (s : State) (v : Bool) : (s.setFault v).bw = s.bw := rfl
@[simp] theorem State.setFault_acc (s : State) (v : Bool) : (s.setFault v).acc = s.acc := rfl
@[simp] theorem State.setFault_ring (s : State) (v : Bool) : (s.setFault v).ring = s.ring := rfl
@[simp] theorem State.setFault_cur (s : State) (v : Bool) : (s.setFault v).cur = s.cur := rfl
@[simp] theorem State.setFault_disp (s : State) (v : Bool) : (s.setFault v).disp = s.disp := rfl
@[simp] theorem State.setFault_fg (s : State) (v : Bool) : (s.setFault v).fg = s.fg := rfl
@[simp] theorem State.setFault_fault (s : State) (v : Bool) : (s.setFault v).fault = v := rfl
@[simp] theorem State.setFault_row (s : State) (v : Bool) : (s.setFault v).row = s.row := rfl
@[simp] theorem State.setFault_col (s : State) (v : Bool) : (s.setFault v).col = s.col := rfl
@[simp] theorem State.setFault_rowsel (s : State) (v : Bool) : (s.setFault v).rowsel = s.rowsel := rfl
@[simp] theorem State.setFault_cfg (s : State) (v : Bool) : (s.setFault v).cfg = s.cfg := rfl
@[simp] theorem State.setFault_schedule (s : State) (v : Bool) : (s.setFault v).schedule = s.schedule := rfl
@[simp] theorem State.setFault_subSel (s : State) (v : Bool) : (s.setFault v).subSel = s.subSel := rfl

@[simp] theorem State.setRow_line (s : State) (v : BitVec 3) : (s.setRow v).line = s.line := rfl
@[simp] theorem State.setRow_tcnt (s : State) (v : BitVec 3) : (s.setRow v).tcnt = s.tcnt := rfl
@[simp] theorem State.setRow_obs (s : State) (v : BitVec 3) : (s.setRow v).obs = s.obs := rfl
@[simp] theorem State.setRow_last (s : State) (v : BitVec 3) : (s.setRow v).last = s.last := rfl
@[simp] theorem State.setRow_st (s : State) (v : BitVec 3) : (s.setRow v).st = s.st := rfl
@[simp] theorem State.setRow_bw (s : State) (v : BitVec 3) : (s.setRow v).bw = s.bw := rfl
@[simp] theorem State.setRow_acc (s : State) (v : BitVec 3) : (s.setRow v).acc = s.acc := rfl
@[simp] theorem State.setRow_ring (s : State) (v : BitVec 3) : (s.setRow v).ring = s.ring := rfl
@[simp] theorem State.setRow_cur (s : State) (v : BitVec 3) : (s.setRow v).cur = s.cur := rfl
@[simp] theorem State.setRow_disp (s : State) (v : BitVec 3) : (s.setRow v).disp = s.disp := rfl
@[simp] theorem State.setRow_fg (s : State) (v : BitVec 3) : (s.setRow v).fg = s.fg := rfl
@[simp] theorem State.setRow_fault (s : State) (v : BitVec 3) : (s.setRow v).fault = s.fault := rfl
@[simp] theorem State.setRow_row (s : State) (v : BitVec 3) : (s.setRow v).row = v := rfl
@[simp] theorem State.setRow_col (s : State) (v : BitVec 3) : (s.setRow v).col = s.col := rfl
@[simp] theorem State.setRow_rowsel (s : State) (v : BitVec 3) : (s.setRow v).rowsel = s.rowsel := rfl
@[simp] theorem State.setRow_cfg (s : State) (v : BitVec 3) : (s.setRow v).cfg = s.cfg := rfl
@[simp] theorem State.setRow_schedule (s : State) (v : BitVec 3) : (s.setRow v).schedule = s.schedule := rfl
@[simp] theorem State.setRow_subSel (s : State) (v : BitVec 3) : (s.setRow v).subSel = s.subSel := rfl

@[simp] theorem State.setCol_line (s : State) (v : Byte) : (s.setCol v).line = s.line := rfl
@[simp] theorem State.setCol_tcnt (s : State) (v : Byte) : (s.setCol v).tcnt = s.tcnt := rfl
@[simp] theorem State.setCol_obs (s : State) (v : Byte) : (s.setCol v).obs = s.obs := rfl
@[simp] theorem State.setCol_last (s : State) (v : Byte) : (s.setCol v).last = s.last := rfl
@[simp] theorem State.setCol_st (s : State) (v : Byte) : (s.setCol v).st = s.st := rfl
@[simp] theorem State.setCol_bw (s : State) (v : Byte) : (s.setCol v).bw = s.bw := rfl
@[simp] theorem State.setCol_acc (s : State) (v : Byte) : (s.setCol v).acc = s.acc := rfl
@[simp] theorem State.setCol_ring (s : State) (v : Byte) : (s.setCol v).ring = s.ring := rfl
@[simp] theorem State.setCol_cur (s : State) (v : Byte) : (s.setCol v).cur = s.cur := rfl
@[simp] theorem State.setCol_disp (s : State) (v : Byte) : (s.setCol v).disp = s.disp := rfl
@[simp] theorem State.setCol_fg (s : State) (v : Byte) : (s.setCol v).fg = s.fg := rfl
@[simp] theorem State.setCol_fault (s : State) (v : Byte) : (s.setCol v).fault = s.fault := rfl
@[simp] theorem State.setCol_row (s : State) (v : Byte) : (s.setCol v).row = s.row := rfl
@[simp] theorem State.setCol_col (s : State) (v : Byte) : (s.setCol v).col = v := rfl
@[simp] theorem State.setCol_rowsel (s : State) (v : Byte) : (s.setCol v).rowsel = s.rowsel := rfl
@[simp] theorem State.setCol_cfg (s : State) (v : Byte) : (s.setCol v).cfg = s.cfg := rfl
@[simp] theorem State.setCol_schedule (s : State) (v : Byte) : (s.setCol v).schedule = s.schedule := rfl
@[simp] theorem State.setCol_subSel (s : State) (v : Byte) : (s.setCol v).subSel = s.subSel := rfl

@[simp] theorem State.setRowsel_line (s : State) (v : Byte) : (s.setRowsel v).line = s.line := rfl
@[simp] theorem State.setRowsel_tcnt (s : State) (v : Byte) : (s.setRowsel v).tcnt = s.tcnt := rfl
@[simp] theorem State.setRowsel_obs (s : State) (v : Byte) : (s.setRowsel v).obs = s.obs := rfl
@[simp] theorem State.setRowsel_last (s : State) (v : Byte) : (s.setRowsel v).last = s.last := rfl
@[simp] theorem State.setRowsel_st (s : State) (v : Byte) : (s.setRowsel v).st = s.st := rfl
@[simp] theorem State.setRowsel_bw (s : State) (v : Byte) : (s.setRowsel v).bw = s.bw := rfl
@[simp] theorem State.setRowsel_acc (s : State) (v : Byte) : (s.setRowsel v).acc = s.acc := rfl
@[simp] theorem State.setRowsel_ring (s : State) (v : Byte) : (s.setRowsel v).ring = s.ring := rfl
@[simp] theorem State.setRowsel_cur (s : State) (v : Byte) : (s.setRowsel v).cur = s.cur := rfl
@[simp] theorem State.setRowsel_disp (s : State) (v : Byte) : (s.setRowsel v).disp = s.disp := rfl
@[simp] theorem State.setRowsel_fg (s : State) (v : Byte) : (s.setRowsel v).fg = s.fg := rfl
@[simp] theorem State.setRowsel_fault (s : State) (v : Byte) : (s.setRowsel v).fault = s.fault := rfl
@[simp] theorem State.setRowsel_row (s : State) (v : Byte) : (s.setRowsel v).row = s.row := rfl
@[simp] theorem State.setRowsel_col (s : State) (v : Byte) : (s.setRowsel v).col = s.col := rfl
@[simp] theorem State.setRowsel_rowsel (s : State) (v : Byte) : (s.setRowsel v).rowsel = v := rfl
@[simp] theorem State.setRowsel_cfg (s : State) (v : Byte) : (s.setRowsel v).cfg = s.cfg := rfl
@[simp] theorem State.setRowsel_schedule (s : State) (v : Byte) : (s.setRowsel v).schedule = s.schedule := rfl
@[simp] theorem State.setRowsel_subSel (s : State) (v : Byte) : (s.setRowsel v).subSel = s.subSel := rfl

@[simp] theorem State.setCfg_line (s : State) (v : BringUp) : (s.setCfg v).line = s.line := rfl
@[simp] theorem State.setCfg_tcnt (s : State) (v : BringUp) : (s.setCfg v).tcnt = s.tcnt := rfl
@[simp] theorem State.setCfg_obs (s : State) (v : BringUp) : (s.setCfg v).obs = s.obs := rfl
@[simp] theorem State.setCfg_last (s : State) (v : BringUp) : (s.setCfg v).last = s.last := rfl
@[simp] theorem State.setCfg_st (s : State) (v : BringUp) : (s.setCfg v).st = s.st := rfl
@[simp] theorem State.setCfg_bw (s : State) (v : BringUp) : (s.setCfg v).bw = s.bw := rfl
@[simp] theorem State.setCfg_acc (s : State) (v : BringUp) : (s.setCfg v).acc = s.acc := rfl
@[simp] theorem State.setCfg_ring (s : State) (v : BringUp) : (s.setCfg v).ring = s.ring := rfl
@[simp] theorem State.setCfg_cur (s : State) (v : BringUp) : (s.setCfg v).cur = s.cur := rfl
@[simp] theorem State.setCfg_disp (s : State) (v : BringUp) : (s.setCfg v).disp = s.disp := rfl
@[simp] theorem State.setCfg_fg (s : State) (v : BringUp) : (s.setCfg v).fg = s.fg := rfl
@[simp] theorem State.setCfg_fault (s : State) (v : BringUp) : (s.setCfg v).fault = s.fault := rfl
@[simp] theorem State.setCfg_row (s : State) (v : BringUp) : (s.setCfg v).row = s.row := rfl
@[simp] theorem State.setCfg_col (s : State) (v : BringUp) : (s.setCfg v).col = s.col := rfl
@[simp] theorem State.setCfg_rowsel (s : State) (v : BringUp) : (s.setCfg v).rowsel = s.rowsel := rfl
@[simp] theorem State.setCfg_cfg (s : State) (v : BringUp) : (s.setCfg v).cfg = v := rfl
@[simp] theorem State.setCfg_schedule (s : State) (v : BringUp) : (s.setCfg v).schedule = s.schedule := rfl
@[simp] theorem State.setCfg_subSel (s : State) (v : BringUp) : (s.setCfg v).subSel = s.subSel := rfl

@[simp] theorem State.setSchedule_line (s : State) (v : List Trigger) : (s.setSchedule v).line = s.line := rfl
@[simp] theorem State.setSchedule_tcnt (s : State) (v : List Trigger) : (s.setSchedule v).tcnt = s.tcnt := rfl
@[simp] theorem State.setSchedule_obs (s : State) (v : List Trigger) : (s.setSchedule v).obs = s.obs := rfl
@[simp] theorem State.setSchedule_last (s : State) (v : List Trigger) : (s.setSchedule v).last = s.last := rfl
@[simp] theorem State.setSchedule_st (s : State) (v : List Trigger) : (s.setSchedule v).st = s.st := rfl
@[simp] theorem State.setSchedule_bw (s : State) (v : List Trigger) : (s.setSchedule v).bw = s.bw := rfl
@[simp] theorem State.setSchedule_acc (s : State) (v : List Trigger) : (s.setSchedule v).acc = s.acc := rfl
@[simp] theorem State.setSchedule_ring (s : State) (v : List Trigger) : (s.setSchedule v).ring = s.ring := rfl
@[simp] theorem State.setSchedule_cur (s : State) (v : List Trigger) : (s.setSchedule v).cur = s.cur := rfl
@[simp] theorem State.setSchedule_disp (s : State) (v : List Trigger) : (s.setSchedule v).disp = s.disp := rfl
@[simp] theorem State.setSchedule_fg (s : State) (v : List Trigger) : (s.setSchedule v).fg = s.fg := rfl
@[simp] theorem State.setSchedule_fault (s : State) (v : List Trigger) : (s.setSchedule v).fault = s.fault := rfl
@[simp] theorem State.setSchedule_row (s : State) (v : List Trigger) : (s.setSchedule v).row = s.row := rfl
@[simp] theorem State.setSchedule_col (s : State) (v : List Trigger) : (s.setSchedule v).col = s.col := rfl
@[simp] theorem State.setSchedule_rowsel (s : State) (v : List Trigger) : (s.setSchedule v).rowsel = s.rowsel := rfl
@[simp] theorem State.setSchedule_cfg (s : State) (v : List Trigger) : (s.setSchedule v).cfg = s.cfg := rfl
@[simp] theorem State.setSchedule_schedule (s : State) (v : List Trigger) : (s.setSchedule v).schedule = v := rfl
@[simp] theorem State.setSchedule_subSel (s : State) (v : List Trigger) : (s.setSchedule v).subSel = s.subSel := rfl

@[simp] theorem State.setSubSel_line (s : State) (v : Option (BitVec 8)) : (s.setSubSel v).line = s.line := rfl
@[simp] theorem State.setSubSel_tcnt (s : State) (v : Option (BitVec 8)) : (s.setSubSel v).tcnt = s.tcnt := rfl
@[simp] theorem State.setSubSel_obs (s : State) (v : Option (BitVec 8)) : (s.setSubSel v).obs = s.obs := rfl
@[simp] theorem State.setSubSel_last (s : State) (v : Option (BitVec 8)) : (s.setSubSel v).last = s.last := rfl
@[simp] theorem State.setSubSel_st (s : State) (v : Option (BitVec 8)) : (s.setSubSel v).st = s.st := rfl
@[simp] theorem State.setSubSel_bw (s : State) (v : Option (BitVec 8)) : (s.setSubSel v).bw = s.bw := rfl
@[simp] theorem State.setSubSel_acc (s : State) (v : Option (BitVec 8)) : (s.setSubSel v).acc = s.acc := rfl
@[simp] theorem State.setSubSel_ring (s : State) (v : Option (BitVec 8)) : (s.setSubSel v).ring = s.ring := rfl
@[simp] theorem State.setSubSel_cur (s : State) (v : Option (BitVec 8)) : (s.setSubSel v).cur = s.cur := rfl
@[simp] theorem State.setSubSel_disp (s : State) (v : Option (BitVec 8)) : (s.setSubSel v).disp = s.disp := rfl
@[simp] theorem State.setSubSel_fg (s : State) (v : Option (BitVec 8)) : (s.setSubSel v).fg = s.fg := rfl
@[simp] theorem State.setSubSel_fault (s : State) (v : Option (BitVec 8)) : (s.setSubSel v).fault = s.fault := rfl
@[simp] theorem State.setSubSel_row (s : State) (v : Option (BitVec 8)) : (s.setSubSel v).row = s.row := rfl
@[simp] theorem State.setSubSel_col (s : State) (v : Option (BitVec 8)) : (s.setSubSel v).col = s.col := rfl
@[simp] theorem State.setSubSel_rowsel (s : State) (v : Option (BitVec 8)) : (s.setSubSel v).rowsel = s.rowsel := rfl
@[simp] theorem State.setSubSel_cfg (s : State) (v : Option (BitVec 8)) : (s.setSubSel v).cfg = s.cfg := rfl
@[simp] theorem State.setSubSel_schedule (s : State) (v : Option (BitVec 8)) : (s.setSubSel v).schedule = s.schedule := rfl
@[simp] theorem State.setSubSel_subSel (s : State) (v : Option (BitVec 8)) : (s.setSubSel v).subSel = v := rfl

/-- Two states whose fields are equal are equal. -/
theorem State.eq_of_fields {s t : State} (line : s.line = t.line) (tcnt : s.tcnt = t.tcnt) (obs : s.obs = t.obs)
    (last : s.last = t.last) (st : s.st = t.st) (bw : s.bw = t.bw) (acc : s.acc = t.acc) (ring : s.ring = t.ring)
    (cur : s.cur = t.cur) (disp : s.disp = t.disp) (fg : s.fg = t.fg) (fault : s.fault = t.fault) (row : s.row = t.row)
    (col : s.col = t.col) (rowsel : s.rowsel = t.rowsel) (cfg : s.cfg = t.cfg) (schedule : s.schedule = t.schedule)
    (subSel : s.subSel = t.subSel) : s = t := by
  cases s; cases t; simp_all

end Sys2Proof.Machine
end

