-- ==== Sys2Proof/Laws/Memory.lean ====
section
/-!
SUPPORT. The laws of the byte arrays: read after write, the canonical form and its preservation, equality of canonical arrays, and
the clearing of an array.
-/

namespace Sys2Proof.Machine

@[simp] theorem Memory.read_nil (i : Nat) : Memory.read [] i = Memory.unlisted := rfl

theorem Memory.read_cons (k : Nat) (x : Byte) (m : Memory) (i : Nat) :
    Memory.read ((k, x) :: m) i = if k = i then x else Memory.read m i := rfl

theorem Memory.read_unlist_same (m : Memory) (i : Nat) : (m.unlist i).read i = Memory.unlisted := by
  induction m with
  | nil => rfl
  | cons e m ih =>
    obtain ⟨k, x⟩ := e
    simp only [Memory.unlist]
    split
    · exact ih
    · simp [Memory.read_cons, *]

theorem Memory.read_unlist_other (m : Memory) {i j : Nat} (h : j ≠ i) : (m.unlist i).read j = m.read j := by
  induction m with
  | nil => rfl
  | cons e m ih =>
    obtain ⟨k, x⟩ := e
    simp only [Memory.unlist]
    split
    · subst k; simp [Memory.read_cons, Ne.symm h, ih]
    · simp [Memory.read_cons, ih]

theorem Memory.read_enlist_other (m : Memory) (v : Byte) {i j : Nat} (h : j ≠ i) : (m.enlist i v).read j = m.read j := by
  induction m with
  | nil => simp [Memory.enlist, Memory.read_cons, Ne.symm h]
  | cons e m ih =>
    obtain ⟨k, x⟩ := e
    simp only [Memory.enlist]
    split
    · simp [Memory.read_cons, Ne.symm h]
    · simp [Memory.read_cons, ih]

theorem Memory.read_enlist_unlist (m : Memory) (i : Nat) (v : Byte) : ((m.unlist i).enlist i v).read i = v := by
  induction m with
  | nil => simp [Memory.unlist, Memory.enlist, Memory.read_cons]
  | cons e m ih =>
    obtain ⟨k, x⟩ := e
    simp only [Memory.unlist]
    split
    · exact ih
    · simp only [Memory.enlist]
      split
      · simp [Memory.read_cons]
      · simp [Memory.read_cons, *]

/-- A read after a write to the same cell gives the value written. -/
@[simp] theorem Memory.read_write_same (m : Memory) (i : Nat) (v : Byte) : (m.write i v).read i = v := by
  unfold Memory.write
  split
  · next h => rw [Memory.read_unlist_same, h]
  · exact Memory.read_enlist_unlist m i v

/-- A write leaves every other cell alone. -/
theorem Memory.read_write_other (m : Memory) (v : Byte) {i j : Nat} (h : j ≠ i) : (m.write i v).read j = m.read j := by
  unfold Memory.write
  split
  · exact Memory.read_unlist_other m h
  · rw [Memory.read_enlist_other _ v h, Memory.read_unlist_other m h]

theorem Memory.read_write (m : Memory) (i j : Nat) (v : Byte) : (m.write i v).read j = if j = i then v else m.read j := by
  split
  · next h => subst h; simp
  · next h => exact Memory.read_write_other m v h

/-- What the canonical form of a non-empty list says. -/
theorem Memory.wfFrom_cons {lo size k : Nat} {x : Byte} {m : Memory} :
    Memory.wfFrom lo size ((k, x) :: m) = true ↔ lo ≤ k ∧ k < size ∧ x ≠ Memory.unlisted ∧ Memory.wfFrom (k + 1) size m = true := by
  simp [Memory.wfFrom, and_assoc]

theorem Memory.wfFrom_mono {lo lo' size : Nat} {m : Memory} (h : Memory.wfFrom lo size m = true) (hle : lo' ≤ lo) :
    Memory.wfFrom lo' size m = true := by
  cases m with
  | nil => rfl
  | cons e m =>
    obtain ⟨k, x⟩ := e
    rw [Memory.wfFrom_cons] at h ⊢
    exact ⟨hle.trans h.1, h.2⟩

theorem Memory.wfFrom_unlist {lo size : Nat} {m : Memory} (i : Nat) (h : Memory.wfFrom lo size m = true) :
    Memory.wfFrom lo size (m.unlist i) = true := by
  induction m generalizing lo with
  | nil => rfl
  | cons e m ih =>
    obtain ⟨k, x⟩ := e
    rw [Memory.wfFrom_cons] at h
    obtain ⟨h1, h2, h3, h4⟩ := h
    simp only [Memory.unlist]
    split
    · exact Memory.wfFrom_mono (ih h4) (by omega)
    · rw [Memory.wfFrom_cons]; exact ⟨h1, h2, h3, ih h4⟩

/-- Listing a cell anew, inside the array and with another value than an unlisted cell's, keeps the canonical form. -/
theorem Memory.wfFrom_enlist {lo size : Nat} {m : Memory} {i : Nat} {v : Byte} (h : Memory.wfFrom lo size m = true)
    (hv : v ≠ Memory.unlisted) (hlo : lo ≤ i) (hi : i < size) :
    Memory.wfFrom lo size ((m.unlist i).enlist i v) = true := by
  induction m generalizing lo with
  | nil => simp [Memory.unlist, Memory.enlist, Memory.wfFrom, hv, hlo, hi]
  | cons e m ih =>
    obtain ⟨k, x⟩ := e
    rw [Memory.wfFrom_cons] at h
    obtain ⟨h1, h2, h3, h4⟩ := h
    simp only [Memory.unlist]
    split
    · subst k
      exact ih (Memory.wfFrom_mono h4 (by omega)) hlo
    · simp only [Memory.enlist]
      split
      · simp only [Memory.wfFrom_cons]
        exact ⟨hlo, hi, hv, by omega, h2, h3, Memory.wfFrom_unlist i h4⟩
      · rw [Memory.wfFrom_cons]
        exact ⟨h1, h2, h3, ih h4 (by omega)⟩

/-- Every write inside the array keeps the canonical form. -/
theorem Memory.wf_write {size : Nat} {m : Memory} {i : Nat} (v : Byte) (h : m.wf size = true) (hi : i < size) :
    (m.write i v).wf size = true := by
  unfold Memory.write Memory.wf
  split
  · exact Memory.wfFrom_unlist i h
  · next hv => exact Memory.wfFrom_enlist h hv (Nat.zero_le i) hi

theorem Memory.wf_zeroCells {size : Nat} {m : Memory} (h : m.wf size = true) : ∀ count, count ≤ size → (m.zeroCells count).wf size = true
  | 0, _ => h
  | count + 1, hc => Memory.wf_write _ (Memory.wf_zeroCells h count (by omega)) (by omega)

theorem Memory.read_zeroCells (m : Memory) (count j : Nat) :
    (m.zeroCells count).read j = if j < count then 0x00#8 else m.read j := by
  induction count with
  | zero => simp [Memory.zeroCells]
  | succ count ih =>
    simp only [Memory.zeroCells, Memory.read_write, ih]
    by_cases h : j = count
    · simp [h]
    · have : j < count + 1 ↔ j < count := by omega
      simp [h, this]

/-- Below the first listed index a canonical array reads as unlisted. -/
theorem Memory.read_of_lt {lo size : Nat} {m : Memory} (h : Memory.wfFrom lo size m = true) {j : Nat} (hj : j < lo) :
    m.read j = Memory.unlisted := by
  induction m generalizing lo with
  | nil => rfl
  | cons e m ih =>
    obtain ⟨k, x⟩ := e
    rw [Memory.wfFrom_cons] at h
    rw [Memory.read_cons, if_neg (by omega)]
    exact ih h.2.2.2 (by omega)

/-- At and beyond its size a canonical array reads as unlisted. -/
theorem Memory.read_of_size_le {lo size : Nat} {m : Memory} (h : Memory.wfFrom lo size m = true) {j : Nat} (hj : size ≤ j) :
    m.read j = Memory.unlisted := by
  induction m generalizing lo with
  | nil => rfl
  | cons e m ih =>
    obtain ⟨k, x⟩ := e
    rw [Memory.wfFrom_cons] at h
    rw [Memory.read_cons, if_neg (by omega)]
    exact ih h.2.2.2

theorem Memory.eq_of_wfFrom {lo lo' size : Nat} {m m' : Memory} (h : Memory.wfFrom lo size m = true)
    (h' : Memory.wfFrom lo' size m' = true) (hr : ∀ j, m.read j = m'.read j) : m = m' := by
  induction m generalizing lo lo' m' with
  | nil =>
    cases m' with
    | nil => rfl
    | cons e m' =>
      obtain ⟨k, x⟩ := e
      have := hr k
      rw [Memory.wfFrom_cons] at h'
      simp [Memory.read_cons] at this
      exact absurd this.symm h'.2.2.1
  | cons e m ih =>
    obtain ⟨k, x⟩ := e
    have hm := Memory.wfFrom_cons.1 h
    cases m' with
    | nil =>
      have := hr k
      simp [Memory.read_cons] at this
      exact absurd this hm.2.2.1
    | cons e' m' =>
      obtain ⟨k', x'⟩ := e'
      have hm' := Memory.wfFrom_cons.1 h'
      have hk : k = k' := by
        rcases Nat.lt_trichotomy k k' with hlt | heq | hgt
        · have := hr k
          rw [Memory.read_cons, if_pos rfl, Memory.read_cons, if_neg (by omega),
            Memory.read_of_lt hm'.2.2.2 (by omega)] at this
          exact absurd this hm.2.2.1
        · exact heq
        · have := hr k'
          rw [Memory.read_cons, if_neg (by omega), Memory.read_cons, if_pos rfl,
            Memory.read_of_lt hm.2.2.2 (by omega)] at this
          exact absurd this.symm hm'.2.2.1
      subst hk
      have hx : x = x' := by
        have := hr k
        simpa [Memory.read_cons] using this
      subst hx
      have : m = m' := by
        refine ih hm.2.2.2 hm'.2.2.2 fun j => ?_
        by_cases hj : k = j
        · subst hj
          rw [Memory.read_of_lt hm.2.2.2 (by omega), Memory.read_of_lt hm'.2.2.2 (by omega)]
        · have := hr j
          simpa [Memory.read_cons, hj] using this
      rw [this]

/-- Two canonical arrays of one size that read alike inside it are equal. -/
theorem Memory.eq_of_read {size : Nat} {m m' : Memory} (h : m.wf size = true) (h' : m'.wf size = true)
    (hr : ∀ j, j < size → m.read j = m'.read j) : m = m' := by
  refine Memory.eq_of_wfFrom h h' fun j => ?_
  by_cases hj : j < size
  · exact hr j hj
  · rw [Memory.read_of_size_le h (by omega), Memory.read_of_size_le h' (by omega)]

/-- Clearing every cell of a canonical array leaves nothing listed. -/
theorem Memory.zeroCells_eq_nil {size : Nat} {m : Memory} (h : m.wf size = true) : m.zeroCells size = [] := by
  refine Memory.eq_of_read (Memory.wf_zeroCells h size le_rfl) (by rfl) fun j hj => ?_
  rw [Memory.read_zeroCells, if_pos hj, Memory.read_nil]

end Sys2Proof.Machine
end

