-- ==== Sys2Proof/Laws/Ops.lean ====
section
/-!
SUPPORT. One lemma for each shared operation that says all it can do, to be cited instead of unfolding the operation.
-/

namespace Sys2Proof.Machine

/-- A conditional operation answers a next state exactly where its condition holds, and then it is the result. -/
theorem runWhen_next {c : Bool} {op : Instr} {r t : State} : runWhen c op r = .next t ↔ c = true ∧ r = t := by
  unfold runWhen; split <;> simp_all

theorem runWhen_of_true {c : Bool} (h : c = true) (op : Instr) (r : State) : runWhen c op r = .next r := by simp [runWhen, h]

theorem runWhen_refused {c : Bool} {op : Instr} {r : State} {e : Refusal} :
    runWhen c op r = .refused e ↔ c = false ∧ e = .notEnabled op := by
  unfold runWhen; split <;> simp_all [eq_comm]

theorem runWhen_not_fault {c : Bool} {op : Instr} {r : State} {e : Fault} : runWhen c op r ≠ .fault e := by
  unfold runWhen; split <;> simp

@[simp] theorem State.changed_iff (s : State) : s.changed = true ↔ s.obs ≠ s.last := by
  rcases ho : s.obs with ⟨a, b⟩
  rcases hl : s.last with ⟨c, d⟩
  simp only [State.changed, ho, hl, Bool.or_eq_true, bne_iff_ne, ne_eq, Observation.mk.injEq]
  tauto

@[simp] theorem State.changed_false_iff (s : State) : s.changed = false ↔ s.obs = s.last := by
  rw [← Bool.not_eq_true, State.changed_iff, not_not]

@[simp] theorem State.polls_iff (s : State) : s.polls = true ↔ s.fault = false ∧ s.fg = fgPoll := by
  simp [State.polls]

@[simp] theorem State.bz_iff (s : State) : s.bz = true ↔ s.bw = 0#16 := by simp [State.bz]

@[simp] theorem State.bz_false_iff (s : State) : s.bz = false ↔ s.bw ≠ 0#16 := by
  rw [← Bool.not_eq_true, State.bz_iff]

theorem State.pollsIn_iff (s : State) (st : BitVec 2) (l : Level) :
    s.pollsIn st l = true ↔ s.fault = false ∧ s.fg = fgPoll ∧ s.obs ≠ s.last ∧ s.st = st ∧ s.obs.level = l := by
  simp [State.pollsIn, and_assoc]

theorem State.copies_iff (s : State) (i : Fin 8) :
    s.copies i = true ↔ s.fault = false ∧ s.fg = BitVec.ofNat 4 (i.val + 1) := by
  simp [State.copies]

@[simp] theorem ringIndex_val (cur : Fin 11) (k : Nat) : (ringIndex cur k).val = (cur.val + k) % 11 := rfl

theorem State.win_eq (s : State) (k : Nat) : s.win k = s.ring.read ((s.cur.val + k) % 11) := rfl

/-- The window depends on the ring and the cursor only. -/
theorem State.win_congr {s t : State} (hr : t.ring = s.ring) (hc : t.cur = s.cur) (k : Nat) : t.win k = s.win k := by
  simp [State.win_eq, hr, hc]

theorem State.winXor_congr {s t : State} (hr : t.ring = s.ring) (hc : t.cur = s.cur) (k : Nat) : t.winXor k = s.winXor k := by
  induction k with
  | zero => rfl
  | succ k ih => simp only [State.winXor, ih, State.win_congr hr hc]

theorem State.hm_congr {s t : State} (hr : t.ring = s.ring) (hc : t.cur = s.cur) : t.hm = s.hm := by
  simp [State.hm, State.win_congr hr hc]

theorem State.cm_congr {s t : State} (hr : t.ring = s.ring) (hc : t.cur = s.cur) : t.cm = s.cm := by
  simp [State.cm, State.checksum, State.win_congr hr hc, State.winXor_congr hr hc]

/-- All that the scan can do: it sets `fg` to `Copy(0)` when the window is a frame. -/
theorem State.scan_eq (s : State) : s.scan = s.setFg (if s.hm && s.cm then fgCopy0 else s.fg) := by
  cases h : s.hm <;> cases h' : s.cm <;> simp [State.scan, State.acceptFrame, h, h'] <;> rfl

/-- All that `APPEND` can do. -/
theorem State.appendByte_eq (s : State) (v : Byte) :
    s.appendByte v =
      ((s.setRing (s.ring.write s.cur.val v)).setCur (ringIndex s.cur 1)).setFg
        (if ((s.setRing (s.ring.write s.cur.val v)).setCur (ringIndex s.cur 1)).hm &&
            ((s.setRing (s.ring.write s.cur.val v)).setCur (ringIndex s.cur 1)).cm then fgCopy0 else s.fg) := by
  rw [State.appendByte, State.scan_eq]; rfl

@[simp] theorem State.appendByte_ring (s : State) (v : Byte) : (s.appendByte v).ring = s.ring.write s.cur.val v := by
  rw [State.appendByte_eq]; rfl

@[simp] theorem State.appendByte_cur (s : State) (v : Byte) : (s.appendByte v).cur = ringIndex s.cur 1 := by
  rw [State.appendByte_eq]; rfl

/-- The window after an append: every byte one place older, the new byte last. -/
theorem State.win_appendByte (s : State) (v : Byte) {k : Nat} (hk : k < 11) :
    (s.appendByte v).win k = if k = 10 then v else s.win (k + 1) := by
  have hc := s.cur.isLt
  rw [State.win_eq, State.appendByte_ring, State.appendByte_cur, Memory.read_write, State.win_eq]
  by_cases h : k = 10
  · subst h
    rw [if_pos, if_pos rfl]
    rw [ringIndex_val]; omega
  · have hne : ((ringIndex s.cur 1).val + k) % 11 ≠ s.cur.val := by rw [ringIndex_val]; omega
    rw [if_neg hne, if_neg h]
    congr 1
    rw [ringIndex_val]; omega

/-- `t` is `s` but for the cells the shifting of a bit may write: `acc`, `ring`, `cur`, `fg`. -/
def State.sameButShift (s t : State) : Prop := t = (((s.setAcc t.acc).setRing t.ring).setCur t.cur).setFg t.fg

theorem State.sameButShift_refl (s : State) : s.sameButShift s := rfl

theorem State.sameButShift_trans {s t u : State} (h : s.sameButShift t) (h' : t.sameButShift u) : s.sameButShift u := by
  unfold State.sameButShift at *
  rw [h'] ; rw [h]; rfl

theorem State.appendByte_frame (s : State) (v : Byte) : s.sameButShift (s.appendByte v) := by
  unfold State.sameButShift
  rw [State.appendByte_eq]; rfl

/-- All that `SHIFT b` can do: the accumulator takes the bit, and the byte is appended at the ninth. -/
theorem State.shiftBit_eq (s : State) (b : Bool) :
    s.shiftBit b =
      if countUp s.acc.cnt = 9#4 then
        (s.setAcc ⟨shiftIn s.acc.data b, countUp s.acc.cnt⟩).appendByte (shiftIn s.acc.data b)
      else s.setAcc ⟨shiftIn s.acc.data b, countUp s.acc.cnt⟩ := by
  simp [State.shiftBit, State.byteDone]

@[simp] theorem State.appendByte_acc (s : State) (v : Byte) : (s.appendByte v).acc = s.acc := by
  rw [State.appendByte_eq]; rfl

@[simp] theorem State.shiftBit_acc (s : State) (b : Bool) :
    (s.shiftBit b).acc = ⟨shiftIn s.acc.data b, countUp s.acc.cnt⟩ := by
  rw [State.shiftBit_eq]; split <;> simp

theorem State.shiftBit_frame (s : State) (b : Bool) : s.sameButShift (s.shiftBit b) := by
  rw [State.shiftBit_eq]
  split
  · exact State.sameButShift_trans (t := s.setAcc _) rfl (State.appendByte_frame _ _)
  · rfl

/-- The loop of `DATA.EDGE` writes no other cell than a shift does. -/
theorem State.shiftLoop_frame (b : Bool) (n : Nat) (s : State) : s.sameButShift (State.shiftLoop b n s) := by
  induction n generalizing s with
  | zero => rfl
  | succ n ih =>
    simp only [State.shiftLoop]
    split
    · exact State.shiftBit_frame s b
    · exact State.sameButShift_trans (State.shiftBit_frame s b) (ih _)

/-- All that a fetch can do, when the bring-up is in place and no sub-operation is presented alone. -/
theorem fetch_top {s : State} (h : s.running) :
    fetch s = match decodeTop (selector (nextTrigger s).1 (nextTrigger s).2) with
      | .ok i => .ok (i, (nextTrigger s).2)
      | .error _ => .error (.noTopRow (selector (nextTrigger s).1 (nextTrigger s).2)) := by
  obtain ⟨h1, h2⟩ := h
  simp only [fetch, h1, h2, if_true] <;> (split <;> simp_all)

/-- A step that answers a next state has fetched an operation and run it. -/
theorem step_next {s t : State} (h : step s = .next t) : ∃ i s', fetch s = .ok (i, s') ∧ exec i s' = .next t := by
  unfold step at h
  split at h
  · next i s' hf => exact ⟨i, s', hf, h⟩
  · cases h

theorem nextTrigger_cons {s : State} {e : Trigger} {rest : List Trigger} (h : s.schedule = e :: rest) :
    nextTrigger s = (e, s.setSchedule rest) := by
  simp [nextTrigger, h]

theorem nextTrigger_nil {s : State} (h : s.schedule = []) : nextTrigger s = (.foreground, s) := by
  simp [nextTrigger, h]

end Sys2Proof.Machine
end

