-- ==== Sys2Proof/Laws/Exec.lean ====
section
/-!
SUPPORT. For each operation, exactly when its meaning answers a next state, and which. A later proof over all operations cites these
after `cases i` and unfolds no meaning.
-/

namespace Sys2Proof.Machine

theorem exec_tmrInc {s t : State} : exec .tmrInc s = .next t ↔ t = s.setTcnt (s.tcnt + 1#16) := by
  simp [exec, execTmrInc, eq_comm (b := t)]

theorem exec_cap {s t : State} {l : Level} :
    exec (.cap l) s = .next t ↔ l ≠ s.line ∧ t = ((s.setLine l).setObs ⟨l, s.tcnt⟩).setTcnt 0#16 := by
  simp only [exec, execCap, State.capture]
  split <;> simp_all [eq_comm (b := t)]

theorem exec_halt {s t : State} : exec .halt s = .next t ↔ s.fault = true ∧ t = s := by
  simp [exec, execHalt, runWhen_next, eq_comm (b := t)]

theorem exec_pollNop {s t : State} :
    exec .pollNop s = .next t ↔ s.fault = false ∧ s.fg = fgPoll ∧ s.obs = s.last ∧ t = s := by
  simp [exec, execPollNop, runWhen_next, eq_comm (b := t), and_assoc]

theorem exec_idleFall {s t : State} :
    exec .idleFall s = .next t ↔ s.fault = false ∧ s.fg = fgPoll ∧ s.obs ≠ s.last ∧ s.st = stIdle ∧ s.obs.level = false ∧
      t = (s.setLast s.obs).setSt stStart := by
  simp [exec, execIdleFall, State.sawObs, runWhen_next, State.pollsIn_iff, eq_comm (b := t), and_assoc]

theorem exec_idleRise {s t : State} :
    exec .idleRise s = .next t ↔ s.fault = false ∧ s.fg = fgPoll ∧ s.obs ≠ s.last ∧ s.st = stIdle ∧ s.obs.level = true ∧
      t = s.setLast s.obs := by
  simp [exec, execIdleRise, State.sawObs, runWhen_next, State.pollsIn_iff, eq_comm (b := t), and_assoc]

theorem exec_startFall {s t : State} :
    exec .startFall s = .next t ↔ s.fault = false ∧ s.fg = fgPoll ∧ s.obs ≠ s.last ∧ s.st = stStart ∧ s.obs.level = false ∧
      t = s.setLast s.obs := by
  simp [exec, execStartFall, State.sawObs, runWhen_next, State.pollsIn_iff, eq_comm (b := t), and_assoc]

theorem exec_startRise {s t : State} :
    exec .startRise s = .next t ↔ s.fault = false ∧ s.fg = fgPoll ∧ s.obs ≠ s.last ∧ s.st = stStart ∧ s.obs.level = true ∧
      t = (((s.setLast s.obs).setBw s.obs.interval).setAcc ⟨0x00#8, 0#4⟩).setSt stData := by
  simp [exec, execStartRise, State.sawObs, runWhen_next, State.pollsIn_iff, eq_comm (b := t), and_assoc]

theorem exec_dataEdge {s t : State} {l : Level} :
    exec (.dataEdge l) s = .next t ↔ s.fault = false ∧ s.fg = fgPoll ∧ s.obs ≠ s.last ∧ s.st = stData ∧ s.obs.level = l ∧
      s.bw ≠ 0#16 ∧ t = s.dataEdge := by
  simp [exec, execDataEdge, runWhen_next, State.pollsIn_iff, eq_comm (b := t), and_assoc]

theorem exec_dataFault {s t : State} :
    exec .dataFault s = .next t ↔ s.fault = false ∧ s.fg = fgPoll ∧ s.obs ≠ s.last ∧ s.st = stData ∧ s.bw = 0#16 ∧
      t = (s.setLast s.obs).setFault true := by
  simp [exec, execDataFault, State.sawObs, State.raiseCalibrationFault, runWhen_next, State.pollsIn_iff, eq_comm (b := t), and_assoc]

/-- The eight copies, by their row. -/
theorem exec_copy (i : Fin 8) {op : Instr} {s t : State} :
    runWhen (s.copies i) op (s.copyRow i) = .next t ↔ s.fault = false ∧ s.fg = BitVec.ofNat 4 (i.val + 1) ∧
      t = (s.setDisp (s.disp.write i.val (s.win (2 + i.val)))).setFg (s.fg + 1#4) := by
  simp [State.copyRow, State.dispWrite, runWhen_next, State.copies_iff, eq_comm (b := t), and_assoc]

theorem exec_copy0 {s t : State} :
    exec .copy0 s = .next t ↔ s.fault = false ∧ s.fg = 1#4 ∧
      t = (s.setDisp (s.disp.write 0 (s.win 2))).setFg 2#4 := by
  refine (exec_copy (op := .copy0) 0).trans ⟨fun ⟨h, h', e⟩ => ⟨h, h', ?_⟩, fun ⟨h, h', e⟩ => ⟨h, h', ?_⟩⟩
  · rw [e, h']; rfl
  · rw [e, h']; rfl

theorem exec_copy1 {s t : State} :
    exec .copy1 s = .next t ↔ s.fault = false ∧ s.fg = 2#4 ∧
      t = (s.setDisp (s.disp.write 1 (s.win 3))).setFg 3#4 := by
  refine (exec_copy (op := .copy1) 1).trans ⟨fun ⟨h, h', e⟩ => ⟨h, h', ?_⟩, fun ⟨h, h', e⟩ => ⟨h, h', ?_⟩⟩
  · rw [e, h']; rfl
  · rw [e, h']; rfl

theorem exec_copy2 {s t : State} :
    exec .copy2 s = .next t ↔ s.fault = false ∧ s.fg = 3#4 ∧
      t = (s.setDisp (s.disp.write 2 (s.win 4))).setFg 4#4 := by
  refine (exec_copy (op := .copy2) 2).trans ⟨fun ⟨h, h', e⟩ => ⟨h, h', ?_⟩, fun ⟨h, h', e⟩ => ⟨h, h', ?_⟩⟩
  · rw [e, h']; rfl
  · rw [e, h']; rfl

theorem exec_copy3 {s t : State} :
    exec .copy3 s = .next t ↔ s.fault = false ∧ s.fg = 4#4 ∧
      t = (s.setDisp (s.disp.write 3 (s.win 5))).setFg 5#4 := by
  refine (exec_copy (op := .copy3) 3).trans ⟨fun ⟨h, h', e⟩ => ⟨h, h', ?_⟩, fun ⟨h, h', e⟩ => ⟨h, h', ?_⟩⟩
  · rw [e, h']; rfl
  · rw [e, h']; rfl

theorem exec_copy4 {s t : State} :
    exec .copy4 s = .next t ↔ s.fault = false ∧ s.fg = 5#4 ∧
      t = (s.setDisp (s.disp.write 4 (s.win 6))).setFg 6#4 := by
  refine (exec_copy (op := .copy4) 4).trans ⟨fun ⟨h, h', e⟩ => ⟨h, h', ?_⟩, fun ⟨h, h', e⟩ => ⟨h, h', ?_⟩⟩
  · rw [e, h']; rfl
  · rw [e, h']; rfl

theorem exec_copy5 {s t : State} :
    exec .copy5 s = .next t ↔ s.fault = false ∧ s.fg = 6#4 ∧
      t = (s.setDisp (s.disp.write 5 (s.win 7))).setFg 7#4 := by
  refine (exec_copy (op := .copy5) 5).trans ⟨fun ⟨h, h', e⟩ => ⟨h, h', ?_⟩, fun ⟨h, h', e⟩ => ⟨h, h', ?_⟩⟩
  · rw [e, h']; rfl
  · rw [e, h']; rfl

theorem exec_copy6 {s t : State} :
    exec .copy6 s = .next t ↔ s.fault = false ∧ s.fg = 7#4 ∧
      t = (s.setDisp (s.disp.write 6 (s.win 8))).setFg 8#4 := by
  refine (exec_copy (op := .copy6) 6).trans ⟨fun ⟨h, h', e⟩ => ⟨h, h', ?_⟩, fun ⟨h, h', e⟩ => ⟨h, h', ?_⟩⟩
  · rw [e, h']; rfl
  · rw [e, h']; rfl

theorem exec_copy7 {s t : State} :
    exec .copy7 s = .next t ↔ s.fault = false ∧ s.fg = 8#4 ∧
      t = (s.setDisp (s.disp.write 7 (s.win 9))).setFg 9#4 := by
  refine (exec_copy (op := .copy7) 7).trans ⟨fun ⟨h, h', e⟩ => ⟨h, h', ?_⟩, fun ⟨h, h', e⟩ => ⟨h, h', ?_⟩⟩
  · rw [e, h']; rfl
  · rw [e, h']; rfl

theorem exec_clear {s t : State} :
    exec .clear s = .next t ↔ s.fault = false ∧ s.fg = fgClear ∧ t = (s.setRing (s.ring.zeroCells 11)).setFg fgPoll := by
  simp [exec, execClear, State.clearRing, runWhen_next, eq_comm (b := t), and_assoc]

theorem exec_tick {s t : State} :
    exec .tick s = .next t ↔
      t = ((s.setRow (s.row + 1#3)).setCol (s.disp.read (s.row + 1#3).toNat)).setRowsel (1#8 <<< (s.row + 1#3).toNat) := by
  simp only [exec, execTick, Host.Outcome.next.injEq, eq_comm (b := t)]; rfl

theorem exec_periods {s t : State} : exec .periods s = .next t ↔ s.bw ≠ 0#16 ∧ t = s := by
  rw [Ne, ← State.bz_iff]
  cases h : s.bz <;> simp [exec, execPeriods, h, eq_comm (b := t)]

theorem exec_shift {s t : State} {b : Bool} : exec (.shift b) s = .next t ↔ t = s.shiftBit b := by
  simp [exec, execShift, eq_comm (b := t)]

theorem exec_append {s t : State} : exec .append s = .next t ↔ t = s.appendByte s.acc.data := by
  simp [exec, execAppend, eq_comm (b := t)]

theorem exec_scanNohdr {s t : State} : exec .scanNohdr s = .next t ↔ s.hm = false ∧ t = s := by
  simp [exec, execScanNohdr, runWhen_next, eq_comm (b := t)]

theorem exec_scanBadsum {s t : State} : exec .scanBadsum s = .next t ↔ s.hm = true ∧ s.cm = false ∧ t = s := by
  simp [exec, execScanBadsum, runWhen_next, eq_comm (b := t), and_assoc]

theorem exec_scanAccept {s t : State} : exec .scanAccept s = .next t ↔ s.hm = true ∧ s.cm = true ∧ t = s.setFg fgCopy0 := by
  simp [exec, execScanAccept, State.acceptFrame, runWhen_next, eq_comm (b := t), and_assoc]

theorem exec_tAdv {s t : State} : exec .tAdv s = .next t ↔ t = s.setRow (s.row + 1#3) := by
  simp [exec, execTAdv, State.advanceRow, eq_comm (b := t)]

theorem exec_tBlank {s t : State} : exec .tBlank s = .next t ↔ t = s.setRowsel 0x00#8 := by
  simp [exec, execTBlank, State.blankRows, eq_comm (b := t)]

theorem exec_tCols {s t : State} : exec .tCols s = .next t ↔ t = s.setCol (s.disp.read s.row.toNat) := by
  simp only [exec, execTCols, Host.Outcome.next.injEq, eq_comm (b := t)]; rfl

theorem exec_tSelect {s t : State} : exec .tSelect s = .next t ↔ t = s.setRowsel (1#8 <<< s.row.toNat) := by
  simp [exec, execTSelect, State.selectRow, eq_comm (b := t)]

end Sys2Proof.Machine
end

