-- ==== Sys2Proof/Laws/Frames.lean ====
section
/-!
SUPPORT. What the composed operations leave alone, one lemma for each cell, so that no later proof unfolds them.
-/

namespace Sys2Proof.Machine

/-- `DATA.EDGE` writes no other cell than `last`, `st` and the cells a shift writes. -/
theorem State.dataEdge_frame (s : State) :
    s.dataEdge = (((((s.setLast s.obs).setAcc s.dataEdge.acc).setRing s.dataEdge.ring).setCur s.dataEdge.cur).setFg
      s.dataEdge.fg).setSt s.dataEdge.st := by
  have h := State.shiftLoop_frame (bitValue s.obs.level) (periods s.obs.interval s.bw) s.sawObs
  unfold State.sameButShift at h
  simp only [State.dataEdge]
  split
  · rw [h]; rfl
  · rw [h]; rfl

@[simp] theorem State.appendByte_line (s : State) (v : Byte) : (s.appendByte v).line = s.line := by
  rw [State.appendByte_eq]; rfl
@[simp] theorem State.appendByte_tcnt (s : State) (v : Byte) : (s.appendByte v).tcnt = s.tcnt := by
  rw [State.appendByte_eq]; rfl
@[simp] theorem State.appendByte_obs (s : State) (v : Byte) : (s.appendByte v).obs = s.obs := by
  rw [State.appendByte_eq]; rfl
@[simp] theorem State.appendByte_last (s : State) (v : Byte) : (s.appendByte v).last = s.last := by
  rw [State.appendByte_eq]; rfl
@[simp] theorem State.appendByte_st (s : State) (v : Byte) : (s.appendByte v).st = s.st := by
  rw [State.appendByte_eq]; rfl
@[simp] theorem State.appendByte_bw (s : State) (v : Byte) : (s.appendByte v).bw = s.bw := by
  rw [State.appendByte_eq]; rfl
@[simp] theorem State.appendByte_disp (s : State) (v : Byte) : (s.appendByte v).disp = s.disp := by
  rw [State.appendByte_eq]; rfl
@[simp] theorem State.appendByte_fault (s : State) (v : Byte) : (s.appendByte v).fault = s.fault := by
  rw [State.appendByte_eq]; rfl
@[simp] theorem State.appendByte_row (s : State) (v : Byte) : (s.appendByte v).row = s.row := by
  rw [State.appendByte_eq]; rfl
@[simp] theorem State.appendByte_col (s : State) (v : Byte) : (s.appendByte v).col = s.col := by
  rw [State.appendByte_eq]; rfl
@[simp] theorem State.appendByte_rowsel (s : State) (v : Byte) : (s.appendByte v).rowsel = s.rowsel := by
  rw [State.appendByte_eq]; rfl
@[simp] theorem State.appendByte_cfg (s : State) (v : Byte) : (s.appendByte v).cfg = s.cfg := by
  rw [State.appendByte_eq]; rfl
@[simp] theorem State.appendByte_schedule (s : State) (v : Byte) : (s.appendByte v).schedule = s.schedule := by
  rw [State.appendByte_eq]; rfl
@[simp] theorem State.appendByte_subSel (s : State) (v : Byte) : (s.appendByte v).subSel = s.subSel := by
  rw [State.appendByte_eq]; rfl

@[simp] theorem State.shiftBit_line (s : State) (b : Bool) : (s.shiftBit b).line = s.line := by
  rw [State.shiftBit_eq]; split <;> simp
@[simp] theorem State.shiftBit_tcnt (s : State) (b : Bool) : (s.shiftBit b).tcnt = s.tcnt := by
  rw [State.shiftBit_eq]; split <;> simp
@[simp] theorem State.shiftBit_obs (s : State) (b : Bool) : (s.shiftBit b).obs = s.obs := by
  rw [State.shiftBit_eq]; split <;> simp
@[simp] theorem State.shiftBit_last (s : State) (b : Bool) : (s.shiftBit b).last = s.last := by
  rw [State.shiftBit_eq]; split <;> simp
@[simp] theorem State.shiftBit_st (s : State) (b : Bool) : (s.shiftBit b).st = s.st := by
  rw [State.shiftBit_eq]; split <;> simp
@[simp] theorem State.shiftBit_bw (s : State) (b : Bool) : (s.shiftBit b).bw = s.bw := by
  rw [State.shiftBit_eq]; split <;> simp
@[simp] theorem State.shiftBit_disp (s : State) (b : Bool) : (s.shiftBit b).disp = s.disp := by
  rw [State.shiftBit_eq]; split <;> simp
@[simp] theorem State.shiftBit_fault (s : State) (b : Bool) : (s.shiftBit b).fault = s.fault := by
  rw [State.shiftBit_eq]; split <;> simp
@[simp] theorem State.shiftBit_row (s : State) (b : Bool) : (s.shiftBit b).row = s.row := by
  rw [State.shiftBit_eq]; split <;> simp
@[simp] theorem State.shiftBit_col (s : State) (b : Bool) : (s.shiftBit b).col = s.col := by
  rw [State.shiftBit_eq]; split <;> simp
@[simp] theorem State.shiftBit_rowsel (s : State) (b : Bool) : (s.shiftBit b).rowsel = s.rowsel := by
  rw [State.shiftBit_eq]; split <;> simp
@[simp] theorem State.shiftBit_cfg (s : State) (b : Bool) : (s.shiftBit b).cfg = s.cfg := by
  rw [State.shiftBit_eq]; split <;> simp
@[simp] theorem State.shiftBit_schedule (s : State) (b : Bool) : (s.shiftBit b).schedule = s.schedule := by
  rw [State.shiftBit_eq]; split <;> simp
@[simp] theorem State.shiftBit_subSel (s : State) (b : Bool) : (s.shiftBit b).subSel = s.subSel := by
  rw [State.shiftBit_eq]; split <;> simp

@[simp] theorem State.shiftLoop_line (b : Bool) (n : Nat) (s : State) : (State.shiftLoop b n s).line = s.line := by
  rw [State.shiftLoop_frame b n s]; rfl
@[simp] theorem State.shiftLoop_tcnt (b : Bool) (n : Nat) (s : State) : (State.shiftLoop b n s).tcnt = s.tcnt := by
  rw [State.shiftLoop_frame b n s]; rfl
@[simp] theorem State.shiftLoop_obs (b : Bool) (n : Nat) (s : State) : (State.shiftLoop b n s).obs = s.obs := by
  rw [State.shiftLoop_frame b n s]; rfl
@[simp] theorem State.shiftLoop_last (b : Bool) (n : Nat) (s : State) : (State.shiftLoop b n s).last = s.last := by
  rw [State.shiftLoop_frame b n s]; rfl
@[simp] theorem State.shiftLoop_st (b : Bool) (n : Nat) (s : State) : (State.shiftLoop b n s).st = s.st := by
  rw [State.shiftLoop_frame b n s]; rfl
@[simp] theorem State.shiftLoop_bw (b : Bool) (n : Nat) (s : State) : (State.shiftLoop b n s).bw = s.bw := by
  rw [State.shiftLoop_frame b n s]; rfl
@[simp] theorem State.shiftLoop_disp (b : Bool) (n : Nat) (s : State) : (State.shiftLoop b n s).disp = s.disp := by
  rw [State.shiftLoop_frame b n s]; rfl
@[simp] theorem State.shiftLoop_fault (b : Bool) (n : Nat) (s : State) : (State.shiftLoop b n s).fault = s.fault := by
  rw [State.shiftLoop_frame b n s]; rfl
@[simp] theorem State.shiftLoop_row (b : Bool) (n : Nat) (s : State) : (State.shiftLoop b n s).row = s.row := by
  rw [State.shiftLoop_frame b n s]; rfl
@[simp] theorem State.shiftLoop_col (b : Bool) (n : Nat) (s : State) : (State.shiftLoop b n s).col = s.col := by
  rw [State.shiftLoop_frame b n s]; rfl
@[simp] theorem State.shiftLoop_rowsel (b : Bool) (n : Nat) (s : State) : (State.shiftLoop b n s).rowsel = s.rowsel := by
  rw [State.shiftLoop_frame b n s]; rfl
@[simp] theorem State.shiftLoop_cfg (b : Bool) (n : Nat) (s : State) : (State.shiftLoop b n s).cfg = s.cfg := by
  rw [State.shiftLoop_frame b n s]; rfl
@[simp] theorem State.shiftLoop_schedule (b : Bool) (n : Nat) (s : State) : (State.shiftLoop b n s).schedule = s.schedule := by
  rw [State.shiftLoop_frame b n s]; rfl
@[simp] theorem State.shiftLoop_subSel (b : Bool) (n : Nat) (s : State) : (State.shiftLoop b n s).subSel = s.subSel := by
  rw [State.shiftLoop_frame b n s]; rfl

@[simp] theorem State.dataEdge_last (s : State) : s.dataEdge.last = s.obs := by
  rw [State.dataEdge_frame s]; rfl
@[simp] theorem State.dataEdge_line (s : State) : s.dataEdge.line = s.line := by
  rw [State.dataEdge_frame s]; rfl
@[simp] theorem State.dataEdge_tcnt (s : State) : s.dataEdge.tcnt = s.tcnt := by
  rw [State.dataEdge_frame s]; rfl
@[simp] theorem State.dataEdge_obs (s : State) : s.dataEdge.obs = s.obs := by
  rw [State.dataEdge_frame s]; rfl
@[simp] theorem State.dataEdge_bw (s : State) : s.dataEdge.bw = s.bw := by
  rw [State.dataEdge_frame s]; rfl
@[simp] theorem State.dataEdge_disp (s : State) : s.dataEdge.disp = s.disp := by
  rw [State.dataEdge_frame s]; rfl
@[simp] theorem State.dataEdge_fault (s : State) : s.dataEdge.fault = s.fault := by
  rw [State.dataEdge_frame s]; rfl
@[simp] theorem State.dataEdge_row (s : State) : s.dataEdge.row = s.row := by
  rw [State.dataEdge_frame s]; rfl
@[simp] theorem State.dataEdge_col (s : State) : s.dataEdge.col = s.col := by
  rw [State.dataEdge_frame s]; rfl
@[simp] theorem State.dataEdge_rowsel (s : State) : s.dataEdge.rowsel = s.rowsel := by
  rw [State.dataEdge_frame s]; rfl
@[simp] theorem State.dataEdge_cfg (s : State) : s.dataEdge.cfg = s.cfg := by
  rw [State.dataEdge_frame s]; rfl
@[simp] theorem State.dataEdge_schedule (s : State) : s.dataEdge.schedule = s.schedule := by
  rw [State.dataEdge_frame s]; rfl
@[simp] theorem State.dataEdge_subSel (s : State) : s.dataEdge.subSel = s.subSel := by
  rw [State.dataEdge_frame s]; rfl

/-- The accumulator after `DATA.EDGE` is the loop's. -/
theorem State.dataEdge_acc (s : State) :
    s.dataEdge.acc = (State.shiftLoop (bitValue s.obs.level) (periods s.obs.interval s.bw) s.sawObs).acc := by
  simp only [State.dataEdge]; split <;> rfl

/-- The decoder state after `DATA.EDGE`: `Idle` when the count is past 9 and the level is high, else as before. -/
theorem State.dataEdge_st (s : State) :
    s.dataEdge.st = if 9 < s.dataEdge.acc.cnt.toNat ∧ s.obs.level = true then stIdle else s.st := by
  rw [State.dataEdge_acc]
  simp only [State.dataEdge, State.stop, Bool.and_eq_true, decide_eq_true_eq]
  split
  · rfl
  · simp [State.sawObs]

end Sys2Proof.Machine
end

