-- ==== Sys2Proof/Laws/PerInstr.lean ====
section
/-!
SUPPORT. Statements for every operation, made operation by operation.
-/

namespace Sys2Proof.Laws

/-- The encoding of a well-formed operation is a selector word that an agent can be about to run: the fields its agent does not use
are 0, and it is of a row (spec/30_encoding.md R112, R114, R116); and its bits are the fixed digits of its row's pattern. -/
def EncodeWellFormed.Statement (i : Instr) : Prop :=
  i.wellFormed = true → (encode i).wellFormed = true ∧ matchesPattern (encode i) i = true

theorem EncodeWellFormed.tmrInc : EncodeWellFormed.Statement .tmrInc := fun _ => by decide

theorem EncodeWellFormed.cap (l : Level) : EncodeWellFormed.Statement (.cap l) := by
  cases l <;> exact fun _ => by decide

theorem EncodeWellFormed.halt : EncodeWellFormed.Statement .halt := fun _ => by decide

theorem EncodeWellFormed.pollNop : EncodeWellFormed.Statement .pollNop := fun _ => by decide

theorem EncodeWellFormed.idleFall : EncodeWellFormed.Statement .idleFall := fun _ => by decide

theorem EncodeWellFormed.idleRise : EncodeWellFormed.Statement .idleRise := fun _ => by decide

theorem EncodeWellFormed.startFall : EncodeWellFormed.Statement .startFall := fun _ => by decide

theorem EncodeWellFormed.startRise : EncodeWellFormed.Statement .startRise := fun _ => by decide

theorem EncodeWellFormed.dataEdge (l : Level) : EncodeWellFormed.Statement (.dataEdge l) := by
  cases l <;> exact fun _ => by decide

theorem EncodeWellFormed.dataFault : EncodeWellFormed.Statement .dataFault := fun _ => by decide

theorem EncodeWellFormed.copy0 : EncodeWellFormed.Statement .copy0 := fun _ => by decide

theorem EncodeWellFormed.copy1 : EncodeWellFormed.Statement .copy1 := fun _ => by decide

theorem EncodeWellFormed.copy2 : EncodeWellFormed.Statement .copy2 := fun _ => by decide

theorem EncodeWellFormed.copy3 : EncodeWellFormed.Statement .copy3 := fun _ => by decide

theorem EncodeWellFormed.copy4 : EncodeWellFormed.Statement .copy4 := fun _ => by decide

theorem EncodeWellFormed.copy5 : EncodeWellFormed.Statement .copy5 := fun _ => by decide

theorem EncodeWellFormed.copy6 : EncodeWellFormed.Statement .copy6 := fun _ => by decide

theorem EncodeWellFormed.copy7 : EncodeWellFormed.Statement .copy7 := fun _ => by decide

theorem EncodeWellFormed.clear : EncodeWellFormed.Statement .clear := fun _ => by decide

theorem EncodeWellFormed.tick : EncodeWellFormed.Statement .tick := fun _ => by decide

theorem EncodeWellFormed.periods : EncodeWellFormed.Statement .periods := fun _ => by decide

theorem EncodeWellFormed.shift (b : Bool) : EncodeWellFormed.Statement (.shift b) := by
  cases b <;> exact fun _ => by decide

theorem EncodeWellFormed.append : EncodeWellFormed.Statement .append := fun _ => by decide

theorem EncodeWellFormed.scanNohdr : EncodeWellFormed.Statement .scanNohdr := fun _ => by decide

theorem EncodeWellFormed.scanBadsum : EncodeWellFormed.Statement .scanBadsum := fun _ => by decide

theorem EncodeWellFormed.scanAccept : EncodeWellFormed.Statement .scanAccept := fun _ => by decide

theorem EncodeWellFormed.tAdv : EncodeWellFormed.Statement .tAdv := fun _ => by decide

theorem EncodeWellFormed.tBlank : EncodeWellFormed.Statement .tBlank := fun _ => by decide

theorem EncodeWellFormed.tCols : EncodeWellFormed.Statement .tCols := fun _ => by decide

theorem EncodeWellFormed.tSelect : EncodeWellFormed.Statement .tSelect := fun _ => by decide

end Sys2Proof.Laws
end

