-- ==== Sys2Proof/Laws/Select.lean ====
section
/-!
SUPPORT. What each trigger's selector names, as the decision list of spec/30_encoding.md R119.
-/

namespace Sys2Proof.Machine

/-- The operation of the foreground by R119, from the fields of R112: the fault first, then the phase, then the poll. -/
def foregroundChoice (fl : Bool) (ph : BitVec 4) (st : BitVec 2) (ch lv bz : Bool) : Option Instr :=
  if fl then some .halt
  else match ph.toNat with
    | 0 =>
      if !ch then some .pollNop
      else match st.toNat with
        | 0 => some (if lv then .idleRise else .idleFall)
        | 1 => some (if lv then .startRise else .startFall)
        | 2 => some (if bz then .dataFault else .dataEdge lv)
        | _ => none
    | 1 => some .copy0
    | 2 => some .copy1
    | 3 => some .copy2
    | 4 => some .copy3
    | 5 => some .copy4
    | 6 => some .copy5
    | 7 => some .copy6
    | 8 => some .copy7
    | 9 => some .clear
    | _ => none

theorem lookup_foreground_all : ∀ (ph : Fin 16) (st : Fin 4) (ch lv bz fl : Bool),
    lookup (packSelector 2#2 (BitVec.ofFin ph) (BitVec.ofFin st) ch lv bz fl) topTable =
      foregroundChoice fl (BitVec.ofFin ph) (BitVec.ofFin st) ch lv bz := by
  decide +kernel

theorem lookup_foreground (ph : BitVec 4) (st : BitVec 2) (ch lv bz fl : Bool) :
    lookup (packSelector 2#2 ph st ch lv bz fl) topTable = foregroundChoice fl ph st ch lv bz :=
  lookup_foreground_all ph.toFin st.toFin ch lv bz fl

/-- The operation of the foreground in a state, by R119. -/
def State.foregroundOp (s : State) : Option Instr :=
  foregroundChoice s.fault s.fg s.st s.changed s.obs.level s.bz

/-- The selector of a foreground iteration names the operation that R119 chooses. -/
theorem decodeTop_foreground (s : State) (i : Instr) :
    decodeTop (selector .foreground s) = .ok i ↔ s.foregroundOp = some i := by
  have key : lookup (selector .foreground s) topTable = s.foregroundOp := by
    unfold selector State.foregroundOp
    simp only [agentCode]
    split
    · next h =>
      rw [lookup_foreground]
      by_cases hf : s.fault = true
      · simp [foregroundChoice, hf]
      · by_cases hc : s.changed = true
        · by_cases hs : s.st = 2#2
          · simp [foregroundChoice, hf, h, hc, hs]
          · have hs' : s.st.toNat ≠ 2 := fun h2 => hs (BitVec.eq_of_toNat_eq (by simpa using h2))
            simp only [foregroundChoice, hf, h, hc]
            simp only [Bool.true_and]
            rcases Nat.lt_or_ge s.st.toNat 2 with h' | h'
            · interval_cases s.st.toNat <;> simp
            · have : s.st.toNat = 3 := by have := s.st.isLt; omega
              rw [this]; rfl
        · simp [foregroundChoice, hf, h, hc]
    · next h =>
      rw [lookup_foreground]
      have h' : s.fg.toNat ≠ 0 := fun h0 => h (BitVec.eq_of_toNat_eq (by simpa using h0))
      have hlt := s.fg.isLt
      unfold foregroundChoice
      split
      · rfl
      · generalize s.fg.toNat = n at *
        match n with
        | 0 => exact absurd rfl h'
        | 1 | 2 | 3 | 4 | 5 | 6 | 7 | 8 | 9 => rfl
        | n + 10 => rfl
  rw [decodeTop, key]
  cases s.foregroundOp <;> simp

theorem decodeTop_timerTick (s : State) : decodeTop (selector .timerTick s) = .ok .tmrInc := by
  simp only [selector, agentCode]; cases s.fault <;> rfl

theorem decodeTop_lineTransition (s : State) (l : Level) : decodeTop (selector (.lineTransition l) s) = .ok (.cap l) := by
  simp only [selector, agentCode]; cases s.fault <;> cases l <;> rfl

theorem decodeTop_refreshTick (s : State) : decodeTop (selector .refreshTick s) = .ok .tick := by
  simp only [selector, agentCode]; cases s.fault <;> rfl

/-- The operation a trigger runs in a state. -/
def opOf (e : Trigger) (s : State) : Option Instr :=
  match e with
  | .timerTick => some .tmrInc
  | .lineTransition l => some (.cap l)
  | .refreshTick => some .tick
  | .foreground => s.foregroundOp

theorem decodeTop_selector (e : Trigger) (s : State) (i : Instr) :
    decodeTop (selector e s) = .ok i ↔ opOf e s = some i := by
  cases e
  · rw [decodeTop_timerTick]; simp [opOf]
  · rw [decodeTop_lineTransition]; simp [opOf]
  · exact decodeTop_foreground s i
  · rw [decodeTop_refreshTick]; simp [opOf]

/-- All that a step of the running block can do: the next trigger's operation is run, or the selector is of no row. -/
theorem step_running {s : State} (h : s.running) :
    step s = match opOf (nextTrigger s).1 (nextTrigger s).2 with
      | some i => exec i (nextTrigger s).2
      | none => .refused (.noTopRow (selector (nextTrigger s).1 (nextTrigger s).2)) := by
  have hd := decodeTop_selector (nextTrigger s).1 (nextTrigger s).2
  unfold step
  rw [fetch_top h]
  cases ho : opOf (nextTrigger s).1 (nextTrigger s).2 with
  | some i => rw [(hd i).2 ho]
  | none =>
    cases hdec : decodeTop (selector (nextTrigger s).1 (nextTrigger s).2) with
    | ok j => rw [(hd j).1 hdec] at ho; cases ho
    | error e => rfl

end Sys2Proof.Machine
end

