-- ==== Sys2Proof/Laws/Stimulus.lean ====
section
/-!
SUPPORT. Runs under a stimulus: no operation looks at the schedule, so a run goes one trigger at a time, and a program one statement at
a time.
-/

namespace Sys2Proof.Machine

@[simp] theorem State.win_setSchedule (s : State) (r : List Trigger) (k : Nat) : (s.setSchedule r).win k = s.win k := rfl

@[simp] theorem State.hm_setSchedule (s : State) (r : List Trigger) : (s.setSchedule r).hm = s.hm := State.hm_congr rfl rfl

@[simp] theorem State.cm_setSchedule (s : State) (r : List Trigger) : (s.setSchedule r).cm = s.cm := State.cm_congr rfl rfl

theorem State.appendByte_setSchedule (s : State) (r : List Trigger) (v : Byte) :
    (s.setSchedule r).appendByte v = (s.appendByte v).setSchedule r := by
  rw [State.appendByte_eq, State.appendByte_eq]
  have hh := State.hm_congr (s := (s.setRing (s.ring.write s.cur.val v)).setCur (ringIndex s.cur 1))
    (t := ((s.setSchedule r).setRing ((s.setSchedule r).ring.write (s.setSchedule r).cur.val v)).setCur
      (ringIndex (s.setSchedule r).cur 1)) rfl rfl
  have hc := State.cm_congr (s := (s.setRing (s.ring.write s.cur.val v)).setCur (ringIndex s.cur 1))
    (t := ((s.setSchedule r).setRing ((s.setSchedule r).ring.write (s.setSchedule r).cur.val v)).setCur
      (ringIndex (s.setSchedule r).cur 1)) rfl rfl
  rw [hh, hc]; rfl

theorem State.shiftBit_setSchedule (s : State) (r : List Trigger) (b : Bool) :
    (s.setSchedule r).shiftBit b = (s.shiftBit b).setSchedule r := by
  rw [State.shiftBit_eq, State.shiftBit_eq]
  by_cases h : countUp s.acc.cnt = 9#4
  · rw [if_pos (show countUp (s.setSchedule r).acc.cnt = 9#4 from h), if_pos h]
    exact State.appendByte_setSchedule (s.setAcc ⟨shiftIn s.acc.data b, countUp s.acc.cnt⟩) r _
  · rw [if_neg (show ¬countUp (s.setSchedule r).acc.cnt = 9#4 from h), if_neg h]; rfl

theorem State.shiftLoop_setSchedule (b : Bool) (n : Nat) (s : State) (r : List Trigger) :
    State.shiftLoop b n (s.setSchedule r) = (State.shiftLoop b n s).setSchedule r := by
  induction n generalizing s with
  | zero => rfl
  | succ n ih =>
    simp only [State.shiftLoop, State.shiftBit_setSchedule]
    by_cases h : (s.shiftBit b).stop = true
    · rw [if_pos h, if_pos (by exact h)]
    · rw [if_neg h, if_neg (by exact h), ih]

theorem State.dataEdge_setSchedule (s : State) (r : List Trigger) : (s.setSchedule r).dataEdge = s.dataEdge.setSchedule r := by
  have h := State.shiftLoop_setSchedule (bitValue s.obs.level) (periods s.obs.interval s.bw) s.sawObs r
  have h' : (s.setSchedule r).sawObs = s.sawObs.setSchedule r := rfl
  simp only [State.dataEdge, State.setSchedule_obs, State.setSchedule_bw, h', h]
  by_cases hs : ((State.shiftLoop (bitValue s.obs.level) (periods s.obs.interval s.bw) s.sawObs).stop && s.obs.level) = true
  · rw [if_pos hs, if_pos (by exact hs)]; rfl
  · rw [if_neg hs, if_neg (by exact hs)]

/-- No operation looks at the schedule or writes it. -/
theorem exec_setSchedule {i : Instr} {s t : State} (r : List Trigger) (h : exec i s = .next t) :
    exec i (s.setSchedule r) = .next (t.setSchedule r) := by
  cases i
  case cap l => rw [exec_cap] at h ⊢; obtain ⟨h1, rfl⟩ := h; exact ⟨h1, rfl⟩
  case periods => rw [exec_periods] at h ⊢; obtain ⟨h1, rfl⟩ := h; exact ⟨h1, rfl⟩
  case dataEdge l =>
    rw [exec_dataEdge] at h ⊢
    obtain ⟨h1, h2, h3, h4, h5, h6, rfl⟩ := h
    exact ⟨h1, h2, h3, h4, h5, h6, (State.dataEdge_setSchedule s r).symm⟩
  case shift b => rw [exec_shift] at h ⊢; rw [h, State.shiftBit_setSchedule]
  case append => rw [exec_append] at h ⊢; rw [h]; exact (State.appendByte_setSchedule s r _).symm
  case scanNohdr => rw [exec_scanNohdr] at h ⊢; obtain ⟨h1, rfl⟩ := h; exact ⟨by simpa using h1, rfl⟩
  case scanBadsum => rw [exec_scanBadsum] at h ⊢; obtain ⟨h1, h2, rfl⟩ := h; exact ⟨by simpa using h1, by simpa using h2, rfl⟩
  case scanAccept => rw [exec_scanAccept] at h ⊢; obtain ⟨h1, h2, rfl⟩ := h; exact ⟨by simpa using h1, by simpa using h2, rfl⟩
  case halt => rw [exec_halt] at h ⊢; obtain ⟨h1, rfl⟩ := h; exact ⟨h1, rfl⟩
  case pollNop => rw [exec_pollNop] at h ⊢; obtain ⟨h1, h2, h3, rfl⟩ := h; exact ⟨h1, h2, h3, rfl⟩
  case idleFall => rw [exec_idleFall] at h ⊢; obtain ⟨h1, h2, h3, h4, h5, rfl⟩ := h; exact ⟨h1, h2, h3, h4, h5, rfl⟩
  case idleRise => rw [exec_idleRise] at h ⊢; obtain ⟨h1, h2, h3, h4, h5, rfl⟩ := h; exact ⟨h1, h2, h3, h4, h5, rfl⟩
  case startFall => rw [exec_startFall] at h ⊢; obtain ⟨h1, h2, h3, h4, h5, rfl⟩ := h; exact ⟨h1, h2, h3, h4, h5, rfl⟩
  case startRise => rw [exec_startRise] at h ⊢; obtain ⟨h1, h2, h3, h4, h5, rfl⟩ := h; exact ⟨h1, h2, h3, h4, h5, rfl⟩
  case dataFault => rw [exec_dataFault] at h ⊢; obtain ⟨h1, h2, h3, h4, h5, rfl⟩ := h; exact ⟨h1, h2, h3, h4, h5, rfl⟩
  case copy0 => rw [exec_copy0] at h ⊢; obtain ⟨h1, h2, rfl⟩ := h; exact ⟨h1, h2, rfl⟩
  case copy1 => rw [exec_copy1] at h ⊢; obtain ⟨h1, h2, rfl⟩ := h; exact ⟨h1, h2, rfl⟩
  case copy2 => rw [exec_copy2] at h ⊢; obtain ⟨h1, h2, rfl⟩ := h; exact ⟨h1, h2, rfl⟩
  case copy3 => rw [exec_copy3] at h ⊢; obtain ⟨h1, h2, rfl⟩ := h; exact ⟨h1, h2, rfl⟩
  case copy4 => rw [exec_copy4] at h ⊢; obtain ⟨h1, h2, rfl⟩ := h; exact ⟨h1, h2, rfl⟩
  case copy5 => rw [exec_copy5] at h ⊢; obtain ⟨h1, h2, rfl⟩ := h; exact ⟨h1, h2, rfl⟩
  case copy6 => rw [exec_copy6] at h ⊢; obtain ⟨h1, h2, rfl⟩ := h; exact ⟨h1, h2, rfl⟩
  case copy7 => rw [exec_copy7] at h ⊢; obtain ⟨h1, h2, rfl⟩ := h; exact ⟨h1, h2, rfl⟩
  case clear => rw [exec_clear] at h ⊢; obtain ⟨h1, h2, rfl⟩ := h; exact ⟨h1, h2, rfl⟩
  all_goals cases h; rfl

/-- What an operation leaves of the model's own fields and of the configuration. -/
theorem exec_outside {i : Instr} {s t : State} (h : exec i s = .next t) :
    t.cfg = s.cfg ∧ t.schedule = s.schedule ∧ t.subSel = s.subSel := by
  cases i <;> simp only [exec_tmrInc, exec_cap, exec_halt, exec_pollNop, exec_idleFall, exec_idleRise, exec_startFall, exec_startRise,
    exec_dataEdge, exec_dataFault, exec_copy0, exec_copy1, exec_copy2, exec_copy3, exec_copy4, exec_copy5, exec_copy6, exec_copy7,
    exec_clear, exec_tick, exec_periods, exec_shift, exec_append, exec_scanNohdr, exec_scanBadsum, exec_scanAccept, exec_tAdv,
    exec_tBlank, exec_tCols, exec_tSelect] at h
  all_goals (revert h; (try simp only [and_imp]); intros; subst_vars; simp)

/-- The operation a trigger runs does not depend on the schedule. -/
theorem opOf_setSchedule (e : Trigger) (s : State) (r : List Trigger) : opOf e (s.setSchedule r) = opOf e s := by
  cases e <;> rfl

@[simp] theorem afterStimulus_nil (s : State) : afterStimulus [] s = .next (s.setSchedule []) := rfl

/-- A run that answers a next state, one trigger at a time. -/
theorem afterStimulus_cons {e : Trigger} {rest : List Trigger} {s u : State} (h : s.running) :
    afterStimulus (e :: rest) s = .next u ↔
      ∃ i t, opOf e s = some i ∧ exec i s = .next t ∧ t.running ∧ afterStimulus rest t = .next u := by
  have hr : (s.setSchedule (e :: rest)).running := h
  have hstep : step (s.setSchedule (e :: rest)) = match opOf e s with
      | some i => exec i (s.setSchedule rest)
      | none => .refused (.noTopRow (selector e (s.setSchedule rest))) := by
    rw [step_running hr, nextTrigger_cons (s := s.setSchedule (e :: rest)) rfl]
    exact congrArg (fun o : Option Instr => match o with
      | some i => exec i (s.setSchedule rest)
      | none => .refused (.noTopRow (selector e (s.setSchedule rest)))) (opOf_setSchedule e s rest)
  have hrun : afterStimulus (e :: rest) s = match step (s.setSchedule (e :: rest)) with
      | .next t => Host.Core.run Sys2Proof.core rest.length t
      | .fault r => .fault r
      | .refused r => .refused r := by
    have hc : Sys2Proof.core.step (s.setSchedule (e :: rest)) = step (s.setSchedule (e :: rest)) := rfl
    simp only [afterStimulus, List.length_cons, Host.Core.run, hc]
    cases step (s.setSchedule (e :: rest)) <;> rfl
  rw [hrun, hstep]
  constructor
  · intro hu
    cases ho : opOf e s with
    | none => rw [ho] at hu; cases hu
    | some i =>
      rw [ho] at hu
      simp only at hu
      cases he : exec i (s.setSchedule rest) with
      | fault r => rw [he] at hu; cases hu
      | refused r => rw [he] at hu; cases hu
      | next t =>
        rw [he] at hu
        have ht := exec_outside he
        have hb := exec_setSchedule s.schedule he
        refine ⟨i, t.setSchedule s.schedule, rfl, hb, ⟨ht.1.trans h.1, ht.2.2.trans h.2⟩, ?_⟩
        have : (t.setSchedule s.schedule).setSchedule rest = t := by rw [← show t.schedule = rest from ht.2.1]; rfl
        unfold afterStimulus
        rw [this]; exact hu
  · rintro ⟨i, t, ho, he, -, hu⟩
    rw [ho]
    simp only [exec_setSchedule rest he]
    exact hu

/-- A step of a running block leaves it running. -/
theorem running_of_exec {i : Instr} {s t : State} (h : s.running) (he : exec i s = .next t) : t.running :=
  ⟨(exec_outside he).1.trans h.1, (exec_outside he).2.2.trans h.2⟩

/-- A run in two parts. -/
theorem afterStimulus_append {a b : List Trigger} {s u : State} (h : s.running) :
    afterStimulus (a ++ b) s = .next u ↔ ∃ t, afterStimulus a s = .next t ∧ t.running ∧ afterStimulus b t = .next u := by
  induction a generalizing s with
  | nil => exact ⟨fun hu => ⟨_, rfl, h, hu⟩, fun ⟨t, ht, _, hu⟩ => by cases ht; exact hu⟩
  | cons e a ih =>
    rw [List.cons_append, afterStimulus_cons h]
    constructor
    · rintro ⟨i, t, ho, he, ht, hu⟩
      obtain ⟨v, hv, hvr, hu'⟩ := (ih ht).1 hu
      exact ⟨v, (afterStimulus_cons h).2 ⟨i, t, ho, he, ht, hv⟩, hvr, hu'⟩
    · rintro ⟨v, hv, hvr, hu⟩
      obtain ⟨i, t, ho, he, ht, hv'⟩ := (afterStimulus_cons h).1 hv
      exact ⟨i, t, ho, he, ht, (ih ht).2 ⟨v, hv', hvr, hu⟩⟩

@[simp] theorem runProgram_nil (s : State) : runProgram [] s = .next s := rfl

/-- A program that answers a next state, one statement at a time. -/
theorem runProgram_cons {p : Statement} {rest : List Statement} {s u : State} :
    runProgram (p :: rest) s = .next u ↔ ∃ t, afterStimulus (p.triggers s) s = .next t ∧ runProgram rest t = .next u := by
  simp only [runProgram]
  split <;> simp_all

/-- A program in two parts. -/
theorem runProgram_append {a b : List Statement} {s u : State} :
    runProgram (a ++ b) s = .next u ↔ ∃ t, runProgram a s = .next t ∧ runProgram b t = .next u := by
  induction a generalizing s with
  | nil => simp
  | cons p a ih =>
    simp only [List.cons_append, runProgram_cons, ih]
    tauto

end Sys2Proof.Machine
end

