-- ==== Sys2Proof/Tests/Slice0.lean ====
section
/-!
SUPPORT. The model's own tests: the checks of WellFormed.lean refusing ill-formed terms, the decoding of words written out from the
patterns of spec/30_encoding.md, the spec's own examples of each operation (the rule stands beside each), and, for each statement
with hypotheses, a state and operands that meet them.
-/

open Sys2Proof Sys2Proof.Machine

namespace Sys2Proof.Tests

/-! ## WellFormed: what each check refuses -/

/-- `PH` with an agent other than the foreground (R112). -/
theorem test_wf_refuses_phase_of_timer : topFieldsClear 0b00_0001_00_0_0_0_0#12 = false := by decide
/-- `ST` while the foreground copies (R112). -/
theorem test_wf_refuses_decoder_state_in_copy : topFieldsClear 0b10_0001_10_0_0_0_0#12 = false := by decide
/-- `CH` with the agent `DS` (R112). -/
theorem test_wf_refuses_changed_of_tick : topFieldsClear 0b11_0000_00_1_0_0_0#12 = false := by decide
/-- `LV` with `CH = 0` (R112). -/
theorem test_wf_refuses_level_unchanged : topFieldsClear 0b10_0000_00_0_1_0_0#12 = false := by decide
/-- `BZ` outside `Data` (R112). -/
theorem test_wf_refuses_zero_width_in_idle : topFieldsClear 0b10_0000_00_1_0_1_0#12 = false := by decide
/-- `st = 3` (R116). -/
theorem test_wf_refuses_fourth_decoder_state : topUnlisted 0b10_0000_11_1_0_0_0#12 = true := by decide
/-- `fg = 10` (R116), the first phase that does not exist, and `fg = 9`, the last that does. -/
theorem test_wf_refuses_tenth_phase : topUnlisted 0b10_1010_00_0_0_0_0#12 = true ∧ topUnlisted 0b10_1001_00_0_0_0_0#12 = false := by
  decide
/-- `ID` 0 and 9 (R116). -/
theorem test_wf_refuses_sub_ids : subUnlisted 0x00#8 = true ∧ subUnlisted 0x90#8 = true ∧ subUnlisted 0x80#8 = false := by decide
/-- Bits 3:2 set (R114). -/
theorem test_wf_refuses_sub_middle_bits : subUnlisted 0x14#8 = true ∧ subUnlisted 0x38#8 = true := by decide
/-- `HM` outside `SCAN`, and `CM` outside `SCAN` and `SHIFT` (R116). -/
theorem test_wf_refuses_sub_low_bits : subUnlisted 0x22#8 = true ∧ subUnlisted 0x31#8 = true ∧ subUnlisted 0x21#8 = false := by decide
/-- Each of them as a selector word. -/
theorem test_wf_refuses_words :
    SelWord.wellFormed (.top 0xB00#12) = false ∧ SelWord.wellFormed (.top 0x040#12) = false ∧ SelWord.wellFormed (.sub 0xF0#8) = false := by
  decide
/-- A "transition" to the level the line has already (R120, U11). -/
theorem test_wf_refuses_stimulus : stimulusWellFormed true [.lineTransition true] = false ∧
    stimulusWellFormed true [.lineTransition false, .timerTick, .lineTransition false] = false ∧
    stimulusWellFormed true [.lineTransition false, .foreground, .lineTransition true] = true := by decide

/-! ## Decode: the digits of R113 and R115, `x` written 0 -/

theorem test_decode_tmrInc : decodeTop 0b000000000000#12 = .ok .tmrInc := by decide
theorem test_decode_cap_low : decodeTop 0b010000000000#12 = .ok (.cap false) := by decide
theorem test_decode_cap_high : decodeTop 0b010000000100#12 = .ok (.cap true) := by decide
theorem test_decode_halt : decodeTop 0b100000000001#12 = .ok .halt := by decide
theorem test_decode_pollNop : decodeTop 0b100000000000#12 = .ok .pollNop := by decide
theorem test_decode_idleFall : decodeTop 0b100000001000#12 = .ok .idleFall := by decide
theorem test_decode_idleRise : decodeTop 0b100000001100#12 = .ok .idleRise := by decide
theorem test_decode_startFall : decodeTop 0b100000011000#12 = .ok .startFall := by decide
theorem test_decode_startRise : decodeTop 0b100000011100#12 = .ok .startRise := by decide
theorem test_decode_dataEdge_low : decodeTop 0b100000101000#12 = .ok (.dataEdge false) := by decide
theorem test_decode_dataEdge_high : decodeTop 0b100000101100#12 = .ok (.dataEdge true) := by decide
theorem test_decode_dataFault : decodeTop 0b100000101010#12 = .ok .dataFault := by decide
theorem test_decode_copy0 : decodeTop 0b100001000000#12 = .ok .copy0 := by decide
theorem test_decode_copy1 : decodeTop 0b100010000000#12 = .ok .copy1 := by decide
theorem test_decode_copy2 : decodeTop 0b100011000000#12 = .ok .copy2 := by decide
theorem test_decode_copy3 : decodeTop 0b100100000000#12 = .ok .copy3 := by decide
theorem test_decode_copy4 : decodeTop 0b100101000000#12 = .ok .copy4 := by decide
theorem test_decode_copy5 : decodeTop 0b100110000000#12 = .ok .copy5 := by decide
theorem test_decode_copy6 : decodeTop 0b100111000000#12 = .ok .copy6 := by decide
theorem test_decode_copy7 : decodeTop 0b101000000000#12 = .ok .copy7 := by decide
theorem test_decode_clear : decodeTop 0b101001000000#12 = .ok .clear := by decide
theorem test_decode_tick : decodeTop 0b110000000000#12 = .ok .tick := by decide
theorem test_decode_periods : decodeSub 0b00010000#8 = .ok .periods := by decide
theorem test_decode_shift_low : decodeSub 0b00100000#8 = .ok (.shift false) := by decide
theorem test_decode_shift_high : decodeSub 0b00100001#8 = .ok (.shift true) := by decide
theorem test_decode_append : decodeSub 0b00110000#8 = .ok .append := by decide
theorem test_decode_scanNohdr : decodeSub 0b01000000#8 = .ok .scanNohdr := by decide
theorem test_decode_scanBadsum : decodeSub 0b01000010#8 = .ok .scanBadsum := by decide
theorem test_decode_scanAccept : decodeSub 0b01000011#8 = .ok .scanAccept := by decide
theorem test_decode_tAdv : decodeSub 0b01010000#8 = .ok .tAdv := by decide
theorem test_decode_tBlank : decodeSub 0b01100000#8 = .ok .tBlank := by decide
theorem test_decode_tCols : decodeSub 0b01110000#8 = .ok .tCols := by decide
theorem test_decode_tSelect : decodeSub 0b10000000#8 = .ok .tSelect := by decide

/-- The digits a row ignores (R113): every `x` of `HALT` and of `DATA.FAULT` written 1. -/
theorem test_decode_ignored_bits : decodeTop 0b101111111111#12 = .ok .halt ∧ decodeTop 0b100000101110#12 = .ok .dataFault ∧
    decodeSub 0b01000001#8 = .ok .scanNohdr := by decide
/-- Reserved words do not fall through to a neighbour (R116). -/
theorem test_decode_refuses : decodeTop 0b100000111000#12 = .error .noTopRow ∧ decodeTop 0b101010000000#12 = .error .noTopRow ∧
    decodeSub 0x00#8 = .error .noSubRow ∧ decodeSub 0x11#8 = .error .noSubRow := by decide
theorem test_decode_bytes : decodeTableWord 12 0x808 = some .idleFall ∧ decodeTableWord 8 0x43 = some .scanAccept ∧
    decodeTableWord 12 0x1808 = none ∧ decodeBytes [] = .error .noSelector := by decide

/-! ## The arrays -/

theorem test_mem_read_after_write : (Memory.write (Memory.write [] 5 0x12#8) 3 0x34#8).read 5 = 0x12#8 ∧
    Memory.write (Memory.write [] 5 0x12#8) 3 0x34#8 = [(3, 0x34#8), (5, 0x12#8)] := by decide
theorem test_mem_zero_removes : Memory.write [(3, 0x34#8), (5, 0x12#8)] 3 0x00#8 = [(5, 0x12#8)] ∧
    Memory.wf 11 [(5, 0x12#8), (3, 0x34#8)] = false ∧ Memory.wf 11 [(3, 0x00#8)] = false ∧ Memory.wf 11 [(11, 0x01#8)] = false := by
  decide

/-! ## One step of each operation, from the spec's examples -/

/-- What an outcome's next state satisfies. -/
def answers (o : Outcome) (p : State → Bool) : Bool :=
  match o with
  | .next t => p t
  | .fault _ => false
  | .refused _ => false

/-- A foreground poll: decoder state, `last`, `obs`. -/
def polling (st : BitVec 2) (last obs : Observation) : State := ((State.reset.setSt st).setLast last).setObs obs

/-- The ring of R184, R185, R186, R187's examples, with a last byte of choice. -/
def frameRing (checksum : Byte) : Memory :=
  [(0, 0x55#8), (1, 0xAA#8), (2, 0x3C#8), (3, 0x42#8), (4, 0xA5#8), (5, 0x81#8), (6, 0xA5#8), (7, 0x99#8), (8, 0x42#8), (9, 0x3C#8),
    (10, checksum)]

/-- A state with that ring, the cursor at 0, in a phase of choice. -/
def framed (checksum : Byte) (fg : BitVec 4) : State := (State.reset.setRing (frameRing checksum)).setFg fg

/-- R140. -/
theorem test_tmrInc : answers (exec .tmrInc (State.reset.setTcnt 299#16)) (fun t => t.tcnt == 300#16) = true := by decide
theorem test_tmrInc_wraps : answers (exec .tmrInc (State.reset.setTcnt 65535#16)) (fun t => t.tcnt == 0#16) = true := by decide
/-- R142. -/
theorem test_cap : answers (exec (.cap false) (State.reset.setTcnt 1000#16))
    (fun t => t.line == false && t.obs == ⟨false, 1000#16⟩ && t.tcnt == 0#16) = true := by decide
theorem test_cap_no_transition : answers (exec (.cap true) State.reset) (fun _ => true) = false := by decide
/-- R160, R221. -/
theorem test_halt : answers (exec .halt (State.reset.setFault true)) (fun t => t == State.reset.setFault true) = true := by decide
/-- R151. -/
theorem test_pollNop : answers (exec .pollNop (polling 0#2 ⟨true, 300#16⟩ ⟨true, 300#16⟩)) (fun t => t.last == ⟨true, 300#16⟩) = true := by
  decide
/-- R152. -/
theorem test_idleFall : answers (exec .idleFall (polling 0#2 ⟨true, 300#16⟩ ⟨false, 1000#16⟩))
    (fun t => t.st == 1#2 && t.last == ⟨false, 1000#16⟩) = true := by decide
/-- R153. -/
theorem test_idleRise : answers (exec .idleRise (polling 0#2 ⟨true, 0#16⟩ ⟨true, 7#16⟩))
    (fun t => t.st == 0#2 && t.last == ⟨true, 7#16⟩) = true := by decide
/-- R155. -/
theorem test_startFall : answers (exec .startFall (polling 1#2 ⟨false, 1000#16⟩ ⟨false, 40#16⟩))
    (fun t => t.st == 1#2 && t.last == ⟨false, 40#16⟩) = true := by decide
/-- R154. -/
theorem test_startRise : answers (exec .startRise (polling 1#2 ⟨false, 1000#16⟩ ⟨true, 300#16⟩))
    (fun t => t.st == 2#2 && t.bw == 300#16 && t.acc == ⟨0x00#8, 0#4⟩) = true := by decide
/-- R157, example 1. -/
theorem test_dataEdge_two_shifts : answers
    (exec (.dataEdge false) (((polling 2#2 ⟨true, 300#16⟩ ⟨false, 600#16⟩).setBw 300#16).setAcc ⟨0x05#8, 4#4⟩))
    (fun t => t.acc == ⟨0x14#8, 6#4⟩ && t.st == 2#2 && t.last == ⟨false, 600#16⟩) = true := by decide
/-- R157, example 2. -/
theorem test_dataEdge_byte_done : answers
    (exec (.dataEdge true) (((polling 2#2 ⟨false, 300#16⟩ ⟨true, 600#16⟩).setBw 300#16).setAcc ⟨0x52#8, 8#4⟩))
    (fun t => t.acc == ⟨0x4B#8, 10#4⟩ && t.st == 0#2 && t.ring == [(0, 0xA5#8)] && t.cur == 1) = true := by decide
/-- R156. -/
theorem test_dataFault : answers (exec .dataFault (polling 2#2 ⟨true, 300#16⟩ ⟨false, 300#16⟩))
    (fun t => t.fault && t.st == 2#2 && t.last == ⟨false, 300#16⟩) = true := by decide
/-- R158. -/
theorem test_periods_counts : periods 300#16 300#16 = 1 ∧ periods 600#16 300#16 = 2 ∧ periods 2700#16 300#16 = 9 ∧
    periods 449#16 300#16 = 1 ∧ periods 450#16 300#16 = 2 ∧ periods 149#16 300#16 = 219 ∧ periods 65535#16 1#16 = 65536 := by decide
/-- R165 item 2. -/
theorem test_periods_wide : periods 10000#16 40000#16 = 2 := by decide
/-- R159. -/
theorem test_shift : answers (exec (.shift true) (State.reset.setAcc ⟨0x52#8, 8#4⟩))
    (fun t => t.acc == ⟨0xA5#8, 9#4⟩ && t.ring == [(0, 0xA5#8)]) = true := by decide
theorem test_shift_past_the_end : answers (exec (.shift false) (State.reset.setAcc ⟨0xA5#8, 10#4⟩))
    (fun t => t.acc == ⟨0x4A#8, 10#4⟩ && t.ring == []) = true := by decide
/-- R181. -/
theorem test_append : answers (exec .append (State.reset.setAcc ⟨0xA5#8, 9#4⟩))
    (fun t => t.ring == [(0, 0xA5#8)] && t.cur == 1 && t.fg == 0#4) = true := by decide
theorem test_append_wraps : answers (exec .append (((framed 0x00#8 0#4).setCur 10).setAcc ⟨0xE7#8, 9#4⟩))
    (fun t => t.cur == 0 && t.fg == 1#4) = true := by decide
/-- R182. -/
theorem test_scanNohdr : answers (exec .scanNohdr ((State.reset.setRing [(0, 0xA5#8)]).setCur 1)) (fun t => t.fg == 0#4) = true := by
  decide
/-- R184. -/
theorem test_scanBadsum : answers (exec .scanBadsum (framed 0xE6#8 0#4)) (fun t => t.fg == 0#4 && t.checksum == 0xE7#8) = true := by decide
/-- R185. -/
theorem test_scanAccept : answers (exec .scanAccept (framed 0xE7#8 0#4)) (fun t => t.fg == 1#4) = true := by decide
/-- R186, its example: `COPY 2` at `fg = 3`. -/
theorem test_copy2 : answers (exec .copy2 (framed 0xE7#8 3#4)) (fun t => t.disp == [(2, 0xA5#8)] && t.fg == 4#4) = true := by decide
/-- R186, the window turned: `win[9]` of a ring whose cursor is 5. -/
theorem test_copy7_wraps : answers (exec .copy7 ((framed 0xE7#8 8#4).setCur 5)) (fun t => t.disp == [(7, 0x42#8)] && t.fg == 9#4) = true := by
  decide
/-- R187. -/
theorem test_clear : answers (exec .clear ((framed 0xE7#8 9#4).setCur 4)) (fun t => t.ring == [] && t.cur == 4 && t.fg == 0#4) = true := by
  decide
/-- R200. -/
theorem test_tick : answers
    (exec .tick ((((State.reset.setRow 7#3).setDisp [(0, 0x3C#8)]).setCol 0x18#8).setRowsel 0x80#8))
    (fun t => t.row == 0#3 && t.col == 0x3C#8 && t.rowsel == 0x01#8) = true := by decide
/-- R201. -/
theorem test_tAdv : answers (exec .tAdv (State.reset.setRow 7#3)) (fun t => t.row == 0#3) = true := by decide
/-- R202. -/
theorem test_tBlank : answers (exec .tBlank (State.reset.setRowsel 0x80#8)) (fun t => t.rowsel == 0x00#8) = true := by decide
/-- R203. -/
theorem test_tCols : answers (exec .tCols (State.reset.setDisp [(0, 0x3C#8)])) (fun t => t.col == 0x3C#8) = true := by decide
/-- R204. -/
theorem test_tSelect : answers (exec .tSelect (State.reset.setRow 7#3)) (fun t => t.rowsel == 0x80#8) = true := by decide

/-! ## The step -/

/-- R252, and the end of the stimulus: the foreground polls. -/
theorem test_step_from_reset : answers (step State.reset) (fun t => t == State.reset) = true := by decide
theorem test_step_takes_the_trigger : answers (step (State.reset.setSchedule [.lineTransition false, .foreground]))
    (fun t => t.line == false && t.schedule == [.foreground]) = true := by decide
/-- A table word placed is the next operation: one of each format. -/
theorem test_fetch_word_top : answers (step (State.reset.withFetchWord 12 0x808)) (fun t => t.st == 1#2) = true := by decide
theorem test_fetch_word_sub : answers (step (State.reset.withFetchWord 8 0x43)) (fun t => t.fg == 1#4 && t.subSel == none) = true := by
  decide
/-- R121: `RUN` is one `FG` when nothing changed, two at a fault, eleven when an edge completes a frame. -/
theorem test_run_count : runCount runBound State.reset = 1 ∧
    runCount runBound (polling 2#2 ⟨true, 300#16⟩ ⟨false, 300#16⟩) = 2 ∧
    runCount runBound (((((polling 2#2 ⟨false, 300#16⟩ ⟨true, 300#16⟩).setBw 300#16).setAcc ⟨0x73#8, 8#4⟩).setRing (frameRing 0x00#8)).setCur 10)
      = 11 := by decide
/-- R121: `EDGE` does not run the foreground, `EP` does. -/
theorem test_edge_and_process : answers (runProgram [.send (edge false 5)] State.reset) (fun t => t.st == 0#2 && t.obs == ⟨false, 5#16⟩) = true ∧
    answers (runProgram (edgeAndProcess false 5) State.reset) (fun t => t.st == 1#2 && t.last == ⟨false, 5#16⟩) = true := by decide
/-- R106: the edges of `0x00` and `0xA5` at 300 ticks a bit. -/
theorem test_tx_00 : tx 0x00#8 300 1 1000 = [(false, 1000), (true, 300), (false, 2700), (true, 300)] := by decide
theorem test_tx_A5 : tx 0xA5#8 300 1 1000 = [(false, 1000), (true, 300), (false, 300), (true, 300), (false, 300), (true, 300),
    (false, 600), (true, 300), (false, 300), (true, 600)] := by decide

/-! ## Witnesses: for each statement with hypotheses, a state and operands that meet them -/

/-- A running block in phase `Copy(4)`, with an accepted frame in a turned window and four rows copied. -/
def midCopy : State :=
  (((framed 0xE7#8 5#4).setDisp [(0, 0x3C#8), (1, 0x42#8), (2, 0xA5#8), (3, 0x81#8)]).setRow 3#3).setRowsel 0x08#8

/-- A block whose foreground has taken the fault. -/
def faulted : State := (polling 2#2 ⟨false, 300#16⟩ ⟨false, 300#16⟩).setFault true

/-- A poll in `Data` at 300 ticks a bit. -/
def dataPoll (cnt : BitVec 4) (l : Level) : State :=
  ((polling 2#2 ⟨!l, 300#16⟩ ⟨l, 600#16⟩).setBw 300#16).setAcc ⟨0x52#8, cnt⟩

theorem witness_DecodeAndEncodeAgree : Instr.wellFormed (.dataEdge true) = true := by decide

/-- Phases 10 and 15, `st = 3` with a changed observation, and sub-operation selectors with the least and the greatest `ID` of none. -/
theorem witness_SelectorsOfNoRowAreRefused :
    let a := State.reset.setFg 10#4
    let b := State.reset.setFg 15#4
    let c := polling 3#2 ⟨true, 0#16⟩ ⟨false, 0#16⟩
    a.running ∧ topUnlisted (selector (nextTrigger a).1 (nextTrigger a).2) = true ∧
    b.running ∧ topUnlisted (selector (nextTrigger b).1 (nextTrigger b).2) = true ∧
    c.running ∧ topUnlisted (selector (nextTrigger c).1 (nextTrigger c).2) = true ∧
    (∀ w ∈ [(0x00#8 : BitVec 8), 0xFF#8], (State.reset.setSubSel (some w)).cfg = BringUp.complete ∧
      (State.reset.setSubSel (some w)).subSel = some w ∧ subUnlisted w = true) :=
  ⟨⟨rfl, rfl⟩, by decide, ⟨rfl, rfl⟩, by decide, ⟨rfl, rfl⟩, by decide, by decide⟩

theorem witness_StepRunsTheSelectedOperation :
    let s := State.reset.setSchedule [.refreshTick, .foreground]
    let u := State.reset.setSubSel (some 0x43#8)
    State.reset.schedule = [] ∧ State.reset.running ∧ decodeTop (selector (nextTrigger State.reset).1 (nextTrigger State.reset).2) = .ok .pollNop ∧
    s.schedule = .refreshTick :: [.foreground] ∧ s.running ∧ decodeTop (selector (nextTrigger s).1 (nextTrigger s).2) = .ok .tick ∧
    Instr.wellFormed .tick = true ∧ u.cfg = BringUp.complete ∧ u.subSel = some 0x43#8 ∧ decodeSub 0x43#8 = .ok .scanAccept :=
  ⟨rfl, ⟨rfl, rfl⟩, by decide, rfl, ⟨rfl, rfl⟩, by decide, by decide, rfl, rfl, by decide⟩

/-- `st` at its greatest legal value with `fg = 0`, and `fg` at its greatest. -/
theorem witness_ForegroundHasExactlyOneOperation :
    (dataPoll 8#4 true).st ≠ 3#2 ∧ (dataPoll 8#4 true).fg.toNat ≤ 9 ∧ (framed 0xE7#8 9#4).st ≠ 3#2 ∧ (framed 0xE7#8 9#4).fg.toNat ≤ 9 := by
  decide

/-- The invariant holds in the middle of a copy. -/
theorem witness_Inv_midCopy : midCopy.Inv :=
  ⟨by decide, by decide, by decide, by decide, by decide, by decide, by decide, by decide, by decide, by decide⟩

/-- The invariant holds after the fault. -/
theorem witness_Inv_faulted : faulted.Inv :=
  ⟨by decide, by decide, by decide, by decide, by decide, by decide, by decide, by decide, by decide, by decide⟩

theorem witness_NoReachableStateStops :
    let s := midCopy.setSchedule [.lineTransition false]
    s.Inv ∧ s.cfg = BringUp.complete ∧ ∀ (l : Level) (rest : List Trigger), s.schedule = .lineTransition l :: rest → l ≠ s.line := by
  refine ⟨⟨by decide, by decide, by decide, by decide, by decide, by decide, by decide, by decide, by decide, by decide⟩, rfl, ?_⟩
  intro l rest h
  have h1 : [Trigger.lineTransition false] = .lineTransition l :: rest := h
  cases h1
  decide

theorem witness_BringUpIsAPrecondition : (State.reset.setCfg ⟨true, true, true, true, false, true⟩).cfg ≠ BringUp.complete := by decide

theorem witness_CaptureOfATransition :
    let s := State.reset.setSchedule [.lineTransition false, .foreground]
    s.running ∧ s.schedule = .lineTransition false :: [.foreground] ∧ false ≠ s.line := ⟨⟨rfl, rfl⟩, rfl, by decide⟩

/-- With nothing between two transitions, and with every other kind of trigger between them. -/
theorem witness_IntervalIsTheNumberOfTicks :
    State.reset.running ∧ State.reset.tcnt = 0#16 ∧
    (∃ t, afterStimulus ([] ++ [.lineTransition false]) State.reset = .next t) ∧
    (∀ e ∈ [Trigger.timerTick, .foreground, .refreshTick, .timerTick], ∀ l', e ≠ .lineTransition l') ∧
    ∃ t, afterStimulus ([.timerTick, .foreground, .refreshTick, .timerTick] ++ [.lineTransition false]) State.reset = .next t :=
  ⟨⟨rfl, rfl⟩, rfl, ⟨_, rfl⟩, by simp, ⟨_, rfl⟩⟩

theorem witness_UnpolledEdgeIsLost :
    let s := polling 0#2 ⟨true, 7#16⟩ ⟨true, 7#16⟩
    s.running ∧ s.fault = false ∧ s.fg = 0#4 ∧ s.last = ⟨s.line, BitVec.ofNat Config.timerWidth 7⟩ :=
  ⟨⟨rfl, rfl⟩, rfl, rfl, by decide⟩

theorem witness_CaptureAndTickCommute : false ≠ State.reset.line := by decide

theorem witness_HaltAfterTheFault : faulted.fault = true ∧ false ≠ faulted.line := by decide

theorem witness_PollWithoutChange : State.reset.fault = false ∧ State.reset.fg = 0#4 ∧ State.reset.obs = State.reset.last := by decide

/-- Both levels; the second differs from `last` in the interval only. -/
theorem witness_IdleOperations :
    let a := polling 0#2 ⟨true, 300#16⟩ ⟨false, 1000#16⟩
    let b := polling 0#2 ⟨true, 0#16⟩ ⟨true, 7#16⟩
    (a.fault = false ∧ a.fg = 0#4 ∧ a.st = 0#2 ∧ a.obs ≠ a.last ∧ a.obs.level = false) ∧
    (b.fault = false ∧ b.fg = 0#4 ∧ b.st = 0#2 ∧ b.obs ≠ b.last ∧ b.obs.level = true) := by decide

theorem witness_StartOperations :
    let a := polling 1#2 ⟨false, 1000#16⟩ ⟨true, 0#16⟩
    let b := polling 1#2 ⟨false, 1000#16⟩ ⟨false, 40#16⟩
    (a.fault = false ∧ a.fg = 0#4 ∧ a.st = 1#2 ∧ a.obs ≠ a.last ∧ a.obs.level = true) ∧
    (b.fault = false ∧ b.fg = 0#4 ∧ b.st = 1#2 ∧ b.obs ≠ b.last ∧ b.obs.level = false) := by decide

theorem witness_DataFaultTakesTheFault :
    let s := polling 2#2 ⟨true, 300#16⟩ ⟨false, 300#16⟩
    s.fault = false ∧ s.fg = 0#4 ∧ s.st = 2#2 ∧ s.obs ≠ s.last ∧ s.bw = 0#16 := by decide

/-- Counts 0, 8, 9 and 10 before the edge, at both levels. -/
theorem witness_DataEdgeClosedForm : ∀ p ∈ [((0#4 : BitVec 4), true), (8#4, true), (8#4, false), (9#4, true), (10#4, false)],
    let s := dataPoll p.1 p.2
    s.fault = false ∧ s.fg = 0#4 ∧ s.st = 2#2 ∧ s.obs ≠ s.last ∧ s.bw ≠ 0#16 ∧ s.acc.cnt.toNat ≤ 10 := by decide

theorem witness_DataEdgeRunsItsSubOperations :
    let s := dataPoll 8#4 true
    s.fault = false ∧ s.fg = 0#4 ∧ s.st = 2#2 ∧ s.obs ≠ s.last ∧ s.bw ≠ 0#16 := by decide

/-- The smallest and the greatest bit width. -/
theorem witness_PeriodCount : (1#16 ≠ 0#16 ∧ 65535#16 ≠ 0#16) ∧ (dataPoll 8#4 true).bw ≠ 0#16 := by decide

theorem witness_TenPeriodsActAlike : 10 ≤ 10 := by decide

theorem witness_PeriodsAloneWithZeroWidthFaults : State.reset.bw = 0#16 := by decide

/-- The smallest bit width, the first period, an interval of exactly half a period. -/
theorem witness_CountingWindow : 2 ≤ (2#16).toNat ∧ 1 ≤ 1 ∧ (2#16).toNat / 2 ≤ (1#16).toNat := by decide

theorem witness_CountingWindowAsWritten : 2 ≤ (300#16).toNat ∧ 1 ≤ 219 := by decide

/-- One tick a bit; and half a period less one tick, at the greatest width of R165 item 2. -/
theorem witness_PeriodCountCorners : (1#16).toNat = 1 ∧ (3275#16).toNat < (6553#16).toNat / 2 ∧ (6553#16).toNat * 10 ≤ 2 ^ 16 := by decide

/-- The ninth bit, and another. -/
theorem witness_ShiftOneBit : BitVec.ofNat 4 (min ((8#4).toNat + 1) 10) = 9#4 ∧ BitVec.ofNat 4 (min ((10#4).toNat + 1) 10) ≠ 9#4 := by decide

/-- Each of the three transitions takes place. -/
theorem witness_DecoderStateTransitions :
    (∃ t, exec .idleFall (polling 0#2 ⟨true, 0#16⟩ ⟨false, 9#16⟩) = .next t ∧ t.st ≠ 0#2) ∧
    (∃ t, exec .startRise (polling 1#2 ⟨false, 9#16⟩ ⟨true, 9#16⟩) = .next t ∧ t.st ≠ 1#2) ∧
    ∃ t, exec (.dataEdge true) (dataPoll 8#4 true) = .next t ∧ t.st ≠ 2#2 :=
  ⟨⟨_, rfl, by decide⟩, ⟨_, rfl, by decide⟩, ⟨_, rfl, by decide⟩⟩

/-- Each of the three outcomes; the third is the frame of R185. -/
theorem witness_ScanOutcomes :
    let a := State.reset
    let b := framed 0xE6#8 0#4
    let c := framed 0xE7#8 0#4
    let win : State → Nat → Byte := fun s k => s.ring.read ((s.cur.val + k) % 11)
    let x : State → Byte := fun s => win s 0 ^^^ win s 1 ^^^ win s 2 ^^^ win s 3 ^^^ win s 4 ^^^ win s 5 ^^^ win s 6 ^^^ win s 7 ^^^
      win s 8 ^^^ win s 9
    ¬(win a 0 = 0x55#8 ∧ win a 1 = 0xAA#8) ∧ (win b 0 = 0x55#8 ∧ win b 1 = 0xAA#8 ∧ x b ≠ win b 10) ∧
    (win c 0 = 0x55#8 ∧ win c 1 = 0xAA#8 ∧ x c = win c 10) := by decide

theorem witness_AppendOneByte : ∃ u, exec .clear (framed 0xE7#8 9#4) = .next u := ⟨_, rfl⟩

/-- The first and the last row. -/
theorem witness_CopyOneRow :
    ((0 : Fin 8), Instr.copy0) ∈ [((0 : Fin 8), Instr.copy0), (1, .copy1), (2, .copy2), (3, .copy3), (4, .copy4), (5, .copy5), (6, .copy6), (7, .copy7)] ∧
    ((7 : Fin 8), Instr.copy7) ∈ [((0 : Fin 8), Instr.copy0), (1, .copy1), (2, .copy2), (3, .copy3), (4, .copy4), (5, .copy5), (6, .copy6), (7, .copy7)] ∧
    (framed 0xE7#8 1#4).fault = false ∧ (framed 0xE7#8 1#4).fg.toNat = (0 : Fin 8).val + 1 ∧ (framed 0xE7#8 8#4).fg.toNat = (7 : Fin 8).val + 1 := by
  decide

/-- With no byte and with ten bytes after it. -/
theorem witness_ClearConsumesTheFrame :
    let s := framed 0xE7#8 9#4
    s.fault = false ∧ s.fg = 9#4 ∧ s.ring.wf 11 = true ∧ ([] : List Byte).length ≤ 10 ∧ (List.replicate 10 0x55#8).length ≤ 10 := by decide

/-- A phase changes by an accepting append, by the last copy and by the clearing. -/
theorem witness_PhaseTransitions :
    (∃ t, exec .append (((framed 0x00#8 0#4).setCur 10).setAcc ⟨0xE7#8, 9#4⟩) = .next t ∧ t.fg ≠ 0#4) ∧
    (∃ t, exec .copy7 (framed 0xE7#8 8#4) = .next t ∧ t.fg ≠ 8#4) ∧
    ∃ t, exec .clear (framed 0xE7#8 9#4) = .next t ∧ t.fg ≠ 9#4 :=
  ⟨⟨_, rfl, by decide⟩, ⟨_, rfl, by decide⟩, ⟨_, rfl, by decide⟩⟩

theorem witness_FrameIsAcceptedAtEveryRotation :
    let payload : List Byte := [0x3C#8, 0x42#8, 0xA5#8, 0x81#8, 0xA5#8, 0x99#8, 0x42#8, 0x3C#8]
    payload.length = 8 ∧ 0xE6#8 ≠ payloadChecksum payload := by decide

/-- Nine foreground steps alone, and with other triggers between them. -/
theorem witness_CopyOutUnderInterrupts :
    let s := framed 0xE7#8 1#4
    let mixed : List Trigger := [.foreground, .refreshTick, .lineTransition false, .timerTick] ++ List.replicate 8 .foreground
    s.running ∧ s.fault = false ∧ s.fg = 1#4 ∧ mixed.count .foreground = 9 ∧ ∃ t, afterStimulus mixed s = .next t :=
  ⟨⟨rfl, rfl⟩, rfl, rfl, by decide, ⟨_, rfl⟩⟩

/-- The first and the last byte, the first and the last bit. -/
theorem witness_FlippedBitIsRejected :
    (framed 0xE7#8 0#4).hm = true ∧ (framed 0xE7#8 0#4).cm = true ∧ 0 < 11 ∧ 10 < 11 ∧ 0 < 8 ∧ 7 < 8 := by decide

/-- A wiring in two groups. -/
def twoGroups : Wiring := ⟨fun r => ⟨if r.val < 4 then .first else .second, r.val % 4⟩, true, false⟩

theorem witness_TickSubSteps : twoGroups.injective ∧ (∃ t, exec .tBlank midCopy = .next t) ∧
    ∃ t, exec .tSelect (State.reset.setRow 7#3) = .next t :=
  ⟨by unfold Wiring.injective; decide, ⟨_, rfl⟩, ⟨_, rfl⟩⟩

theorem witness_OutputTraceOfATick : Instr.agent .pollNop ≠ .displayScanner ∧ ∃ t, exec .pollNop State.reset = .next t :=
  ⟨by decide, ⟨_, rfl⟩⟩

theorem witness_AtMostOneRowIsSelected :
    midCopy.Inv ∧ twoGroups.injective ∧ twoGroups.asserts midCopy ⟨.first, 3⟩ = true :=
  ⟨witness_Inv_midCopy, by unfold Wiring.injective; decide, by decide⟩

theorem witness_RowsGoRoundRobin :
    State.reset.running ∧ (∃ t, afterStimulus [.refreshTick, .timerTick] State.reset = .next t) ∧
    1 ≤ [Trigger.refreshTick, .timerTick].count .refreshTick := ⟨⟨rfl, rfl⟩, ⟨_, rfl⟩, by decide⟩

/-- With no foreground trigger, with eight, and with three and a tick and an edge among them. -/
theorem witness_TornUpdateShowsOldOrNewRow :
    let s := framed 0xE7#8 1#4
    let mixed : List Trigger := [.foreground, .refreshTick, .foreground, .lineTransition false, .foreground]
    s.running ∧ s.fault = false ∧ s.fg = 1#4 ∧ (∃ u, afterStimulus [] s = .next u) ∧
    (List.replicate 8 Trigger.foreground).count .foreground ≤ 8 ∧ (∃ u, afterStimulus (List.replicate 8 .foreground) s = .next u) ∧
    mixed.count .foreground ≤ 8 ∧ ∃ u, afterStimulus mixed s = .next u :=
  ⟨⟨rfl, rfl⟩, rfl, rfl, ⟨_, rfl⟩, by decide, ⟨_, rfl⟩, by decide, ⟨_, rfl⟩⟩

theorem witness_FirstStepsAfterReset : ∃ t, exec (.cap false) (State.resetWith true 5#16 ⟨0x77#8, 15#4⟩) = .next t := ⟨_, rfl⟩

/-- Outside `Data`, and on the step that enters it. -/
theorem witness_UnspecifiedResetValuesAreNeverRead :
    let s := polling 1#2 ⟨false, 1000#16⟩ ⟨true, 300#16⟩
    (State.reset.st ≠ 2#2 ∧ State.reset.subSel = none ∧ ∃ t, step State.reset = .next t) ∧
    s.st ≠ 2#2 ∧ s.subSel = none ∧ ∃ t, step s = .next t ∧ t.st = 2#2 :=
  ⟨⟨by decide, rfl, ⟨_, rfl⟩⟩, by decide, rfl, ⟨_, rfl, by decide⟩⟩

theorem witness_StepKeepsTheInvariant : midCopy.Inv ∧ ∃ t, step midCopy = .next t := ⟨witness_Inv_midCopy, ⟨_, rfl⟩⟩

theorem witness_MailboxLevelIsTheLineLevel :
    State.reset.obs.level = State.reset.line ∧ (∃ t, step (State.reset.setSchedule [.lineTransition false]) = .next t) ∧
    ∃ t, exec (.cap false) State.reset = .next t := ⟨by decide, ⟨_, rfl⟩, ⟨_, rfl⟩⟩

/-- Every clause is met by an operation that writes its cell: `CAP` (line, obs, tcnt), `START.RISE` (bw, acc, last), `SHIFT` (cur,
ring), `COPY.0` (disp), `TICK` (row, COL, ROWSEL). -/
theorem witness_EachCellHasItsWriters :
    (∃ t, exec (.cap false) (State.reset.setTcnt 5#16) = .next t ∧ t.line ≠ true ∧ t.obs ≠ ⟨true, 0#16⟩ ∧ t.tcnt ≠ 5#16) ∧
    (∃ t, exec .startRise ((polling 1#2 ⟨false, 9#16⟩ ⟨true, 9#16⟩).setAcc ⟨0x01#8, 1#4⟩) = .next t ∧ t.bw ≠ 0#16 ∧ t.acc ≠ ⟨0x01#8, 1#4⟩ ∧
      t.last ≠ ⟨false, 9#16⟩) ∧
    (∃ t, exec (.shift true) (State.reset.setAcc ⟨0x52#8, 8#4⟩) = .next t ∧ t.cur ≠ 0 ∧ t.ring ≠ []) ∧
    (∃ t, exec .copy0 (framed 0xE7#8 1#4) = .next t ∧ t.disp ≠ []) ∧
    ∃ t, exec .tick midCopy = .next t ∧ t.row ≠ 3#3 ∧ t.rowsel ≠ 0x08#8 :=
  ⟨⟨_, rfl, by decide⟩, ⟨_, rfl, by decide⟩, ⟨_, rfl, by decide⟩, ⟨_, rfl, by decide⟩, ⟨_, rfl, by decide⟩⟩

theorem witness_AgentsWriteOnlyTheirCells :
    (∃ t, exec .tmrInc State.reset = .next t) ∧ (∃ t, exec (.cap false) State.reset = .next t) ∧
    (∃ t, exec .pollNop State.reset = .next t) ∧ ∃ t, exec .tick State.reset = .next t := ⟨⟨_, rfl⟩, ⟨_, rfl⟩, ⟨_, rfl⟩, ⟨_, rfl⟩⟩

theorem witness_OnlyDataFaultRaises :
    (∃ t, exec .dataFault (polling 2#2 ⟨true, 300#16⟩ ⟨false, 300#16⟩) = .next t ∧ t.fault = true) ∧
    ∃ t, exec .halt faulted = .next t ∧ faulted.fault = true := ⟨⟨_, rfl, by decide⟩, ⟨_, rfl, by decide⟩⟩

theorem witness_FaultIsSticky :
    faulted.running ∧ faulted.fault = true ∧ ∃ t, afterStimulus [.foreground, .refreshTick, .lineTransition false, .timerTick] faulted = .next t :=
  ⟨⟨rfl, rfl⟩, rfl, ⟨_, rfl⟩⟩

/-- In the middle of a copy, at the greatest legal phase and decoder state, and after the fault. -/
theorem witness_ForegroundReachesQuiescence :
    (midCopy.running ∧ midCopy.st ≠ 3#2 ∧ midCopy.fg.toNat ≤ 9) ∧
    (let s := (framed 0xE7#8 9#4).setSt 2#2; s.running ∧ s.st ≠ 3#2 ∧ s.fg.toNat ≤ 9) ∧
    faulted.running ∧ faulted.st ≠ 3#2 ∧ faulted.fg.toNat ≤ 9 :=
  ⟨⟨⟨rfl, rfl⟩, by decide⟩, ⟨⟨rfl, rfl⟩, by decide⟩, ⟨rfl, rfl⟩, by decide⟩

/-- One stop period. -/
theorem witness_EdgeListOfAByte : 1 ≤ 1 := by decide

/-- The smallest and the greatest bit width with one stop period; a byte that completes no frame and one that does. -/
theorem witness_ByteRoundTrip :
    let s := State.reset
    let u := (framed 0x00#8 0#4).setCur 10
    (s.running ∧ s.fault = false ∧ s.fg = 0#4 ∧ s.st = 0#2 ∧ s.obs = s.last ∧ s.line = true ∧ s.obs.level = true) ∧
    (u.running ∧ u.fault = false ∧ u.fg = 0#4 ∧ u.st = 0#2 ∧ u.obs = u.last ∧ u.line = true ∧ u.obs.level = true) ∧
    2 ≤ 2 ∧ 1 ≤ 1 ∧ (8 + 1) * 2 < 2 ^ Config.timerWidth ∧ (8 + 1) * 7281 < 2 ^ Config.timerWidth ∧
    (s.appendByte 0xA5#8).fg = 0#4 ∧ (u.appendByte 0xE7#8).fg ≠ 0#4 :=
  ⟨⟨⟨rfl, rfl⟩, by decide⟩, ⟨⟨rfl, rfl⟩, by decide⟩, by decide⟩

/-- The frame of R185 from reset, without noise and after twelve bytes of noise, one more than the ring holds. -/
theorem witness_FrameRoundTrip :
    let s := State.reset
    let payload : List Byte := [0x3C#8, 0x42#8, 0xA5#8, 0x81#8, 0xA5#8, 0x99#8, 0x42#8, 0x3C#8]
    let noise : List Byte := List.replicate 12 0x55#8
    payload.length = 8 ∧
    (s.running ∧ s.fault = false ∧ s.fg = 0#4 ∧ s.st = 0#2 ∧ s.obs = s.last ∧ s.line = true ∧ s.obs.level = true) ∧
    2 ≤ 2 ∧ 1 ≤ 1 ∧ (8 + 1) * 2 < 2 ^ Config.timerWidth ∧ (8 + 1) * 7281 < 2 ^ Config.timerWidth ∧
    (([] ++ [0x55#8, 0xAA#8] ++ payload).foldl State.appendByte s).fg = 0#4 ∧
    ((noise ++ [0x55#8, 0xAA#8] ++ payload).foldl State.appendByte s).fg = 0#4 ∧
    0xE6#8 ≠ payloadChecksum payload ∧ ∀ j : Fin 11, s.ringRead j = 0x00#8 :=
  ⟨rfl, ⟨⟨rfl, rfl⟩, by decide⟩, by decide +kernel⟩

end Sys2Proof.Tests
end

/-!
The state as a whole (spec/10_state.md): which cells each operation writes, what a step of the running block is, and that every step
keeps the invariant `State.Inv`.
-/

namespace Sys2Proof.Machine

/-! ## Footprints: the cells that each operation writes -/

/-- `s` with the cells that the operation's rule lets it write taken from `t`; every other cell is as in `s`. -/
def State.footprint (s t : State) : Instr → State
  | .tmrInc => s.setTcnt t.tcnt
  | .cap _ => ((s.setLine t.line).setObs t.obs).setTcnt t.tcnt
  | .halt | .pollNop | .periods | .scanNohdr | .scanBadsum => s
  | .idleFall => (s.setLast t.last).setSt t.st
  | .idleRise | .startFall => s.setLast t.last
  | .startRise => (((s.setLast t.last).setBw t.bw).setAcc t.acc).setSt t.st
  | .dataEdge _ => (((((s.setLast t.last).setAcc t.acc).setRing t.ring).setCur t.cur).setFg t.fg).setSt t.st
  | .dataFault => (s.setLast t.last).setFault t.fault
  | .copy0 | .copy1 | .copy2 | .copy3 | .copy4 | .copy5 | .copy6 | .copy7 => (s.setDisp t.disp).setFg t.fg
  | .clear => (s.setRing t.ring).setFg t.fg
  | .tick => ((s.setRow t.row).setCol t.col).setRowsel t.rowsel
  | .shift _ => (((s.setAcc t.acc).setRing t.ring).setCur t.cur).setFg t.fg
  | .append => ((s.setRing t.ring).setCur t.cur).setFg t.fg
  | .scanAccept => s.setFg t.fg
  | .tAdv => s.setRow t.row
  | .tBlank | .tSelect => s.setRowsel t.rowsel
  | .tCols => s.setCol t.col

/-- An operation writes no cell outside its footprint. -/
theorem exec_footprint {i : Instr} {s t : State} (h : exec i s = .next t) : t = s.footprint t i := by
  cases i
  case tmrInc => rw [exec_tmrInc] at h; subst h; rfl
  case cap l => obtain ⟨-, rfl⟩ := exec_cap.1 h; rfl
  case halt => obtain ⟨-, rfl⟩ := exec_halt.1 h; rfl
  case pollNop => obtain ⟨-, -, -, rfl⟩ := exec_pollNop.1 h; rfl
  case idleFall => obtain ⟨-, -, -, -, -, rfl⟩ := exec_idleFall.1 h; rfl
  case idleRise => obtain ⟨-, -, -, -, -, rfl⟩ := exec_idleRise.1 h; rfl
  case startFall => obtain ⟨-, -, -, -, -, rfl⟩ := exec_startFall.1 h; rfl
  case startRise => obtain ⟨-, -, -, -, -, rfl⟩ := exec_startRise.1 h; rfl
  case dataEdge l =>
    obtain ⟨-, -, -, -, -, -, rfl⟩ := exec_dataEdge.1 h
    simpa only [State.footprint, State.dataEdge_last] using State.dataEdge_frame s
  case dataFault => obtain ⟨-, -, -, -, -, rfl⟩ := exec_dataFault.1 h; rfl
  case copy0 => obtain ⟨-, -, rfl⟩ := exec_copy0.1 h; rfl
  case copy1 => obtain ⟨-, -, rfl⟩ := exec_copy1.1 h; rfl
  case copy2 => obtain ⟨-, -, rfl⟩ := exec_copy2.1 h; rfl
  case copy3 => obtain ⟨-, -, rfl⟩ := exec_copy3.1 h; rfl
  case copy4 => obtain ⟨-, -, rfl⟩ := exec_copy4.1 h; rfl
  case copy5 => obtain ⟨-, -, rfl⟩ := exec_copy5.1 h; rfl
  case copy6 => obtain ⟨-, -, rfl⟩ := exec_copy6.1 h; rfl
  case copy7 => obtain ⟨-, -, rfl⟩ := exec_copy7.1 h; rfl
  case clear => obtain ⟨-, -, rfl⟩ := exec_clear.1 h; rfl
  case tick => rw [exec_tick] at h; subst h; rfl
  case periods => obtain ⟨-, rfl⟩ := exec_periods.1 h; rfl
  case shift b => rw [exec_shift] at h; subst h; exact State.shiftBit_frame s b
  case append => rw [exec_append] at h; subst h; rw [State.appendByte_eq]; rfl
  case scanNohdr => obtain ⟨-, rfl⟩ := exec_scanNohdr.1 h; rfl
  case scanBadsum => obtain ⟨-, -, rfl⟩ := exec_scanBadsum.1 h; rfl
  case scanAccept => obtain ⟨-, -, rfl⟩ := exec_scanAccept.1 h; rfl
  case tAdv => rw [exec_tAdv] at h; subst h; rfl
  case tBlank => rw [exec_tBlank] at h; subst h; rfl
  case tCols => rw [exec_tCols] at h; subst h; rfl
  case tSelect => rw [exec_tSelect] at h; subst h; rfl

/-- Settles O50: the writers of a cell are the operations that have it in their footprint. -/
theorem eachCellHasItsWriters : Obligations.EachCellHasItsWriters := by
  intro i s t h
  rw [exec_footprint h]
  cases i <;> simp [State.footprint]

/-- Settles O51: the footprint of an operation lies within the cells of its agent. -/
theorem agentsWriteOnlyTheirCells : Obligations.AgentsWriteOnlyTheirCells := by
  intro i s t h
  rw [exec_footprint h]
  cases i <;>
    simp [State.footprint, Instr.agent, State.sameOutside, State.sameInput, State.sameForeground, State.sameScanner]

/-! ## A step of the running block -/

/-- Settles O8: `fetch` looks at `cfg` before anything else. -/
theorem bringUpIsAPrecondition : Obligations.BringUpIsAPrecondition := by
  intro s h
  simp [step, fetch, h]

theorem running_of_step {s t : State} (hsub : s.subSel = none) (h : step s = .next t) : s.running := by
  refine ⟨?_, hsub⟩
  by_contra hcfg
  rw [bringUpIsAPrecondition s hcfg] at h
  cases h

/-- The trigger that acts next is the head of the schedule, the foreground when none is left. -/
theorem nextTrigger_eq (s : State) :
    nextTrigger s = (s.schedule.headD .foreground, s.setSchedule s.schedule.tail) := by
  cases h : s.schedule with
  | nil =>
    have hs : s.setSchedule [] = s := by rw [← h]; rfl
    rw [nextTrigger_nil h, List.tail_nil, hs]; rfl
  | cons e rest => rw [nextTrigger_cons h]; rfl

/-- The steps of the running block: the next trigger's operation, run with that trigger taken off the schedule. -/
theorem step_next_iff {s t : State} (hr : s.running) :
    step s = .next t ↔
      ∃ i, opOf (s.schedule.headD .foreground) s = some i ∧ exec i (s.setSchedule s.schedule.tail) = .next t := by
  rw [step_running hr, nextTrigger_eq, opOf_setSchedule]
  cases opOf (s.schedule.headD .foreground) s <;> simp

theorem foregroundChoice_isTop {fl : Bool} {ph : BitVec 4} {st : BitVec 2} {ch lv bz : Bool} {i : Instr}
    (h : foregroundChoice fl ph st ch lv bz = some i) : i.isTop = true := by
  unfold foregroundChoice at h
  (repeat' split at h) <;> cases h <;> rfl

/-- No trigger runs a sub-operation (R114). -/
theorem opOf_isTop {e : Trigger} {s : State} {i : Instr} (h : opOf e s = some i) : i.isTop = true := by
  cases e with
  | foreground => exact foregroundChoice_isTop h
  | timerTick | lineTransition l | refreshTick => cases h; rfl

/-! ## The invariant at reset -/

/-- Settles O46: both arrays are empty, no phase is pending, and no line is selected. -/
theorem resetMeetsTheInvariant : Obligations.ResetMeetsTheInvariant := by
  refine ⟨fun line0 bw acc => ?_, rfl⟩
  constructor <;> simp [State.resetWith, stData, Memory.wf, Memory.wfFrom]

/-! ## The invariant and the updates of the cells -/

section
variable {s : State}

/- The invariant does not speak of these six cells. -/
theorem State.Inv.setLine (h : s.Inv) (v : Level) : (s.setLine v).Inv := { h with }
theorem State.Inv.setTcnt (h : s.Inv) (v : Interval) : (s.setTcnt v).Inv := { h with }
theorem State.Inv.setObs (h : s.Inv) (v : Observation) : (s.setObs v).Inv := { h with }
theorem State.Inv.setLast (h : s.Inv) (v : Observation) : (s.setLast v).Inv := { h with }
theorem State.Inv.setCol (h : s.Inv) (v : Byte) : (s.setCol v).Inv := { h with }
theorem State.Inv.setSchedule (h : s.Inv) (v : List Trigger) : (s.setSchedule v).Inv := { h with }

theorem State.Inv.setSt (h : s.Inv) (hf : s.fault = false) {v : BitVec 2} (hv : v ≠ 3#2)
    (hc : v = stData → s.acc.cnt.toNat ≤ 10) : (s.setSt v).Inv :=
  { h with st_legal := hv, cnt_legal := hc, fault_legal := fun hf' => by simp [hf] at hf' }

theorem State.Inv.setBw (h : s.Inv) (hf : s.fault = false) (v : Interval) : (s.setBw v).Inv :=
  { h with fault_legal := fun hf' => by simp [hf] at hf' }

theorem State.Inv.setAcc (h : s.Inv) {v : Accumulator} (hv : v.cnt.toNat ≤ 10) : (s.setAcc v).Inv :=
  { h with cnt_legal := fun _ => hv }

/-- A fault is taken in `Data`, with `bw = 0`, outside a copy (R220). -/
theorem State.Inv.setFault (h : s.Inv) (hfg : s.fg = fgPoll) (hst : s.st = stData) (hbw : s.bw = 0#16) (v : Bool) :
    (s.setFault v).Inv :=
  { h with fault_legal := fun _ => ⟨hfg, hst, hbw⟩ }

/-- A tick selects the row it has moved to (R200). -/
theorem State.Inv.selectRow (h : s.Inv) (r : BitVec 3) : ((s.setRow r).setRowsel (1#8 <<< r.toNat)).Inv :=
  { h with rowsel_legal := .inr rfl }

/-! ## The invariant and FrameSync -/

/-- Outside a copy the ring and the cursor are free. -/
theorem State.Inv.setRing_setCur (h : s.Inv) (hfg : s.fg = fgPoll) {m : Memory} (hm : m.wf Config.ringLen = true)
    (c : Fin 11) : ((s.setRing m).setCur c).Inv :=
  { h with
    ring_wf := hm
    frame_pending := fun hne => absurd hfg hne
    rows_copied := fun i hi => by simp [hfg] at hi }

theorem State.Inv.acceptFrame (h : s.Inv) (hf : s.fault = false) (hframe : s.hm = true ∧ s.cm = true) : s.acceptFrame.Inv :=
  { h with
    fg_legal := by simp [State.acceptFrame]
    fault_legal := fun hf' => by simp [State.acceptFrame, hf] at hf'
    frame_pending := fun _ => hframe
    rows_copied := fun i hi => by simp [State.acceptFrame] at hi }

/-- The scan enters `Copy(0)` only with a frame in the window. -/
theorem State.Inv.scan (h : s.Inv) (hf : s.fault = false) : s.scan.Inv := by
  unfold State.scan
  split
  · next hhm =>
    split
    · next hcm => exact h.acceptFrame hf ⟨hhm, hcm⟩
    · exact h
  · exact h

theorem State.Inv.appendByte (h : s.Inv) (hf : s.fault = false) (hfg : s.fg = fgPoll) (v : Byte) : (s.appendByte v).Inv :=
  (h.setRing_setCur hfg (Memory.wf_write v h.ring_wf s.cur.isLt) (ringIndex s.cur 1)).scan hf

/-- `COPY i` adds row `i` to the rows copied. -/
theorem State.Inv.copyRow (h : s.Inv) (i : Fin 8) (hf : s.fault = false) (hfg : s.fg = BitVec.ofNat 4 (i.val + 1)) :
    (s.copyRow i).Inv := by
  have hi : s.fg.toNat = i.val + 1 := by rw [hfg]; simp; omega
  have hi' : (s.fg + 1#4).toNat = i.val + 2 := by rw [BitVec.toNat_add, hi]; simp; omega
  have hne : s.fg ≠ fgPoll := fun h0 => by rw [h0] at hi; simp at hi
  exact
    { h with
      disp_wf := Memory.wf_write _ h.disp_wf i.isLt
      fg_legal := by show (s.fg + 1#4).toNat ≤ 9; omega
      fault_legal := fun hf' => by simp [State.copyRow, State.dispWrite, hf] at hf'
      frame_pending := fun _ => h.frame_pending hne
      rows_copied := fun j hj => by
        show (s.disp.write i.val (s.win (2 + i.val))).read j.val = s.win (2 + j.val)
        replace hj : j.val + 1 < (s.fg + 1#4).toNat := hj
        rw [Memory.read_write]
        split
        · next hji => rw [hji]
        · next hji => exact h.rows_copied j (by omega) }

/-- `CLEAR` ends what acceptance began. -/
theorem State.Inv.clearRing (h : s.Inv) (hf : s.fault = false) : s.clearRing.Inv :=
  { h with
    ring_wf := Memory.wf_zeroCells h.ring_wf _ le_rfl
    fg_legal := by simp [State.clearRing]
    fault_legal := fun hf' => by simp [State.clearRing, hf] at hf'
    frame_pending := fun hfg => absurd rfl hfg
    rows_copied := fun i hi => by simp [State.clearRing] at hi }

/-! ## The invariant and SignalDecoder -/

/-- Where a bit may be shifted: no fault, and a frame accepted in this byte only once the byte's nine bits are counted, so that no
append falls into a copy. -/
def State.mayShift (s : State) : Prop := s.fault = false ∧ (s.fg ≠ fgPoll → 9 ≤ s.acc.cnt.toNat)

theorem countUp_toNat (cnt : BitVec 4) : (countUp cnt).toNat = min (cnt.toNat + 1) 10 := by
  rw [countUp, BitVec.toNat_ofNat]; omega

theorem countUp_eq_nine_iff (cnt : BitVec 4) : countUp cnt = 9#4 ↔ cnt.toNat = 8 := by
  rw [← BitVec.toNat_inj, countUp_toNat]; simp; omega

theorem State.Inv.shiftBit (h : s.Inv) (hs : s.mayShift) (b : Bool) : (s.shiftBit b).Inv := by
  obtain ⟨hf, hfg⟩ := hs
  have hacc : (s.setAcc ⟨shiftIn s.acc.data b, countUp s.acc.cnt⟩).Inv :=
    h.setAcc (by show (countUp _).toNat ≤ 10; rw [countUp_toNat]; omega)
  rw [State.shiftBit_eq]
  split
  · next hnine =>
    have hcnt := (countUp_eq_nine_iff _).1 hnine
    exact hacc.appendByte hf (by by_contra hne; have := hfg hne; omega) _
  · exact hacc

theorem State.mayShift_shiftBit (hs : s.mayShift) (b : Bool) : (s.shiftBit b).mayShift := by
  obtain ⟨hf, hfg⟩ := hs
  refine ⟨by rw [State.shiftBit_fault, hf], ?_⟩
  rw [State.shiftBit_acc]
  show _ → 9 ≤ (countUp s.acc.cnt).toNat
  rw [State.shiftBit_eq]
  split
  · next hnine => rw [hnine]; exact fun _ => le_rfl
  · intro hne
    have := hfg hne
    rw [countUp_toNat]; omega

theorem State.Inv.shiftLoop (b : Bool) (n : Nat) (h : s.Inv) (hs : s.mayShift) : (State.shiftLoop b n s).Inv := by
  induction n generalizing s with
  | zero => exact h
  | succ n ih =>
    simp only [State.shiftLoop]
    split
    · exact h.shiftBit hs b
    · exact ih (h.shiftBit hs b) (State.mayShift_shiftBit hs b)

theorem State.Inv.dataEdge (h : s.Inv) (hf : s.fault = false) (hfg : s.fg = fgPoll) : s.dataEdge.Inv := by
  have hloop : (State.shiftLoop (bitValue s.obs.level) (periods s.obs.interval s.bw) s.sawObs).Inv :=
    (h.setLast s.obs).shiftLoop _ _ ⟨hf, fun hne => absurd hfg hne⟩
  simp only [State.dataEdge]
  split
  · exact hloop.setSt (by rw [State.shiftLoop_fault]; exact hf) (by decide) fun hst => absurd hst (by decide)
  · exact hloop

end

/-! ## The invariant and the operations -/

theorem inv_of_copy {s t : State} (h : s.Inv) (i : Fin 8) {op : Instr}
    (he : runWhen (s.copies i) op (s.copyRow i) = .next t) : t.Inv := by
  obtain ⟨hcond, rfl⟩ := runWhen_next.1 he
  obtain ⟨hf, hfg⟩ := (State.copies_iff s i).1 hcond
  exact h.copyRow i hf hfg

/-- Every operation that a trigger can run keeps the invariant; a sub-operation alone need not (an `APPEND` in a copy, a `T.ADV`). -/
theorem exec_keeps_inv {i : Instr} {s t : State} (hi : i.isTop = true) (h : s.Inv) (he : exec i s = .next t) : t.Inv := by
  cases i
  case tmrInc => rw [exec_tmrInc] at he; subst he; exact h.setTcnt _
  case cap l => obtain ⟨-, rfl⟩ := exec_cap.1 he; exact ((h.setLine _).setObs _).setTcnt _
  case halt => obtain ⟨-, rfl⟩ := exec_halt.1 he; exact h
  case pollNop => obtain ⟨-, -, -, rfl⟩ := exec_pollNop.1 he; exact h
  case idleFall =>
    obtain ⟨hf, -, -, -, -, rfl⟩ := exec_idleFall.1 he
    exact (h.setLast s.obs).setSt hf (by decide) fun hst => absurd hst (by decide)
  case idleRise => obtain ⟨-, -, -, -, -, rfl⟩ := exec_idleRise.1 he; exact h.setLast _
  case startFall => obtain ⟨-, -, -, -, -, rfl⟩ := exec_startFall.1 he; exact h.setLast _
  case startRise =>
    obtain ⟨hf, -, -, -, -, rfl⟩ := exec_startRise.1 he
    exact (((h.setLast s.obs).setBw hf s.obs.interval).setAcc (by decide)).setSt hf (by decide) fun _ => Nat.zero_le 10
  case dataEdge l => obtain ⟨hf, hfg, -, -, -, -, rfl⟩ := exec_dataEdge.1 he; exact h.dataEdge hf hfg
  case dataFault =>
    obtain ⟨-, hfg, -, hst, hbw, rfl⟩ := exec_dataFault.1 he
    exact (h.setLast s.obs).setFault hfg hst hbw true
  case copy0 => exact inv_of_copy h 0 he
  case copy1 => exact inv_of_copy h 1 he
  case copy2 => exact inv_of_copy h 2 he
  case copy3 => exact inv_of_copy h 3 he
  case copy4 => exact inv_of_copy h 4 he
  case copy5 => exact inv_of_copy h 5 he
  case copy6 => exact inv_of_copy h 6 he
  case copy7 => exact inv_of_copy h 7 he
  case clear => obtain ⟨hf, -, rfl⟩ := exec_clear.1 he; exact h.clearRing hf
  case tick => rw [exec_tick] at he; subst he; exact (h.selectRow _).setCol _
  all_goals cases hi

/-- Settles O48: the step runs a top-level operation, and each of these keeps the invariant. -/
theorem stepKeepsTheInvariant : Obligations.StepKeepsTheInvariant := by
  intro s t h hstep
  obtain ⟨i, hop, he⟩ := (step_next_iff (running_of_step h.no_sub hstep)).1 hstep
  exact exec_keeps_inv (opOf_isTop hop) (h.setSchedule _) he

/-! ## The unspecified reset values -/

/-- The block with other values in the decoder's two cells that reset leaves unspecified (R36, R37, U8). -/
def State.withBwAcc (s : State) (bw : Interval) (acc : Accumulator) : State := (s.setBw bw).setAcc acc

/-- Only a poll in `Data` looks whether `bw` is 0. -/
theorem foregroundChoice_bz {st : BitVec 2} (h : st ≠ stData) (fl : Bool) (ph : BitVec 4) (ch lv bz bz' : Bool) :
    foregroundChoice fl ph st ch lv bz = foregroundChoice fl ph st ch lv bz' := by
  have hst : st.toNat = 0 ∨ st.toNat = 1 ∨ st.toNat = 3 := by
    have hne : st.toNat ≠ 2 := fun h2 => h (BitVec.eq_of_toNat_eq h2)
    omega
  rcases hst with hst | hst | hst <;> simp only [foregroundChoice, hst]

theorem opOf_withBwAcc {s : State} (h : s.st ≠ stData) (e : Trigger) (bw : Interval) (acc : Accumulator) :
    opOf e (s.withBwAcc bw acc) = opOf e s := by
  cases e with
  | foreground => exact foregroundChoice_bz h ..
  | timerTick | lineTransition l | refreshTick => rfl

section
variable {s t : State} (bw : Interval) (acc : Accumulator)

theorem exec_startRise_withBwAcc (he : exec .startRise s = .next t) :
    exec .startRise (s.withBwAcc bw acc) = .next t := by
  obtain ⟨h1, h2, h3, h4, h5, rfl⟩ := exec_startRise.1 he
  exact exec_startRise.2 ⟨h1, h2, h3, h4, h5, rfl⟩

theorem copyRow_withBwAcc (hst : s.st ≠ stData) (i : Fin 8) {op : Instr}
    (he : runWhen (s.copies i) op (s.copyRow i) = .next t) :
    runWhen ((s.withBwAcc bw acc).copies i) op ((s.withBwAcc bw acc).copyRow i) = .next (t.withBwAcc bw acc) ∧
      t.st ≠ stData := by
  obtain ⟨hcond, rfl⟩ := runWhen_next.1 he
  exact ⟨runWhen_next.2 ⟨hcond, rfl⟩, hst⟩

/-- Outside `Data` only `START.RISE` enters it, and no other operation reads `bw` or `acc`. -/
theorem exec_withBwAcc {i : Instr} (hi : i.isTop = true) (hrise : i ≠ .startRise) (hst : s.st ≠ stData)
    (he : exec i s = .next t) : exec i (s.withBwAcc bw acc) = .next (t.withBwAcc bw acc) ∧ t.st ≠ stData := by
  cases i
  case startRise => exact absurd rfl hrise
  case dataEdge l => obtain ⟨-, -, -, h4, -⟩ := exec_dataEdge.1 he; exact absurd h4 hst
  case dataFault => obtain ⟨-, -, -, h4, -⟩ := exec_dataFault.1 he; exact absurd h4 hst
  case tmrInc => rw [exec_tmrInc] at he; subst he; exact ⟨rfl, hst⟩
  case tick => rw [exec_tick] at he; subst he; exact ⟨rfl, hst⟩
  case cap l => obtain ⟨h1, rfl⟩ := exec_cap.1 he; exact ⟨exec_cap.2 ⟨h1, rfl⟩, hst⟩
  case halt => obtain ⟨h1, rfl⟩ := exec_halt.1 he; exact ⟨exec_halt.2 ⟨h1, rfl⟩, hst⟩
  case pollNop =>
    obtain ⟨h1, h2, h3, rfl⟩ := exec_pollNop.1 he
    exact ⟨exec_pollNop.2 ⟨h1, h2, h3, rfl⟩, hst⟩
  case idleFall =>
    obtain ⟨h1, h2, h3, h4, h5, rfl⟩ := exec_idleFall.1 he
    exact ⟨exec_idleFall.2 ⟨h1, h2, h3, h4, h5, rfl⟩, (by decide : stStart ≠ stData)⟩
  case idleRise =>
    obtain ⟨h1, h2, h3, h4, h5, rfl⟩ := exec_idleRise.1 he
    exact ⟨exec_idleRise.2 ⟨h1, h2, h3, h4, h5, rfl⟩, hst⟩
  case startFall =>
    obtain ⟨h1, h2, h3, h4, h5, rfl⟩ := exec_startFall.1 he
    exact ⟨exec_startFall.2 ⟨h1, h2, h3, h4, h5, rfl⟩, hst⟩
  case copy0 => exact copyRow_withBwAcc bw acc hst 0 he
  case copy1 => exact copyRow_withBwAcc bw acc hst 1 he
  case copy2 => exact copyRow_withBwAcc bw acc hst 2 he
  case copy3 => exact copyRow_withBwAcc bw acc hst 3 he
  case copy4 => exact copyRow_withBwAcc bw acc hst 4 he
  case copy5 => exact copyRow_withBwAcc bw acc hst 5 he
  case copy6 => exact copyRow_withBwAcc bw acc hst 6 he
  case copy7 => exact copyRow_withBwAcc bw acc hst 7 he
  case clear => obtain ⟨h1, h2, rfl⟩ := exec_clear.1 he; exact ⟨exec_clear.2 ⟨h1, h2, rfl⟩, hst⟩
  all_goals cases hi

end

/-- Settles O47: the same operation is selected, and it neither reads the two cells nor, entering `Data`, keeps them. -/
theorem unspecifiedResetValuesAreNeverRead : Obligations.UnspecifiedResetValuesAreNeverRead := by
  intro s t bw acc hst hsub hstep
  have hr := running_of_step hsub hstep
  obtain ⟨i, hop, he⟩ := (step_next_iff hr).1 hstep
  have hstep' : ∀ t', exec i ((s.setSchedule s.schedule.tail).withBwAcc bw acc) = .next t' →
      step (s.withBwAcc bw acc) = .next t' :=
    fun t' he' => (step_next_iff (s := s.withBwAcc bw acc) hr).2 ⟨i, (opOf_withBwAcc hst _ bw acc).trans hop, he'⟩
  by_cases hrise : i = .startRise
  · subst hrise
    exact ⟨t, hstep' t (exec_startRise_withBwAcc bw acc he), rfl, fun _ => rfl⟩
  · obtain ⟨he', hst'⟩ := exec_withBwAcc bw acc (s := s.setSchedule s.schedule.tail) (opOf_isTop hop) hrise hst he
    exact ⟨t.withBwAcc bw acc, hstep' _ he', rfl, fun h => absurd h hst'⟩

/-! ## Edges that no poll sees -/

/-- `TMR n` counts `n` ticks. -/
theorem afterStimulus_tmr {s : State} (hr : s.running) (n : Nat) :
    afterStimulus (tmr n) s = .next ((s.setTcnt (s.tcnt + BitVec.ofNat Config.timerWidth n)).setSchedule []) := by
  induction n generalizing s with
  | zero => rw [BitVec.add_zero]; rfl
  | succ n ih =>
    have hcount : s.tcnt + 1#16 + BitVec.ofNat Config.timerWidth n = s.tcnt + BitVec.ofNat Config.timerWidth (n + 1) := by
      rw [BitVec.add_assoc, ← BitVec.ofNat_add, Nat.add_comm 1 n]
    refine (afterStimulus_cons hr).2 ⟨.tmrInc, s.setTcnt (s.tcnt + 1#16), rfl, rfl, hr, ?_⟩
    have := ih (s := s.setTcnt (s.tcnt + 1#16)) hr
    rwa [State.setTcnt_tcnt, hcount] at this

theorem afterStimulus_cap {s : State} (hr : s.running) {l : Level} (hl : l ≠ s.line) :
    afterStimulus [.lineTransition l] s =
      .next ((((s.setLine l).setObs ⟨l, s.tcnt⟩).setTcnt 0#16).setSchedule []) :=
  (afterStimulus_cons hr).2 ⟨.cap l, _, rfl, exec_cap.2 ⟨hl, rfl⟩, hr, rfl⟩

/-- The state after `EDGE L, n`: what the transition captures is the time since the transition before it. -/
def State.afterEdge (s : State) (l : Level) (n : Nat) : State :=
  (((s.setLine l).setObs ⟨l, s.tcnt + BitVec.ofNat Config.timerWidth n⟩).setTcnt 0#16).setSchedule []

theorem afterStimulus_edge {s : State} (hr : s.running) {l : Level} (hl : l ≠ s.line) (n : Nat) :
    afterStimulus (edge l n) s = .next (s.afterEdge l n) :=
  (afterStimulus_append hr).2 ⟨_, afterStimulus_tmr hr n, hr,
    afterStimulus_cap (s := (s.setTcnt (s.tcnt + BitVec.ofNat Config.timerWidth n)).setSchedule []) hr hl⟩

/-- A polling foreground without a fault that sees no change runs `POLL.NOP` (R151). -/
theorem foregroundOp_pollNop {s : State} (hf : s.fault = false) (hfg : s.fg = fgPoll) (hobs : s.obs = s.last) :
    s.foregroundOp = some .pollNop := by
  have hch : s.changed = false := (State.changed_false_iff s).2 hobs
  simp [State.foregroundOp, foregroundChoice, hf, hfg, hch]

/-- Settles O13: the second capture overwrites the mailbox, and neither edge reaches a cell of the foreground. -/
theorem unpolledEdgeIsLost : Obligations.UnpolledEdgeIsLost := by
  intro s n m hr
  have haway : afterStimulus (edge (!s.line) n) s = .next (s.afterEdge (!s.line) n) := afterStimulus_edge hr (by simp) n
  have hback := afterStimulus_edge (s := s.afterEdge (!s.line) n) (l := s.line) hr (by simp [State.afterEdge]) m
  have hobs : ((s.afterEdge (!s.line) n).afterEdge s.line m).obs = ⟨s.line, BitVec.ofNat Config.timerWidth m⟩ := by
    simp [State.afterEdge]
  refine ⟨_, (afterStimulus_append hr).2 ⟨_, haway, hr, hback⟩, hobs, ⟨rfl, rfl, rfl, rfl, rfl, rfl, rfl, rfl⟩, rfl, ?_⟩
  intro hf hfg hlast
  exact (decodeTop_foreground _ _).2 (foregroundOp_pollNop hf hfg (hobs.trans hlast.symm))

end Sys2Proof.Machine

/-!
What runs between two observations (spec/20_memory.md): a block that meets the invariant never stops on its own, and the interval
timer counts the ticks since the last capture, whatever the other agents do.
-/

namespace Sys2Proof.Machine

/-! ## The selected operation completes -/

/-- `hm`, as the conditions of R182 to R185 write it. -/
theorem State.hm_iff (s : State) : s.hm = true ↔ s.win 0 = 0x55#8 ∧ s.win 1 = 0xAA#8 := by simp [State.hm]

/-- `cm`, as the conditions of R184 and R185 write it. -/
theorem State.cm_iff (s : State) : s.cm = true ↔ s.checksum = s.win 10 := by simp [State.cm]

/-- An operation answers a next state exactly where the condition of its own rule holds. -/
theorem exec_completes_iff {i : Instr} {s : State} : (∃ t, exec i s = .next t) ↔ s.enables i := by
  cases i
  case tmrInc => simp [State.enables, exec_tmrInc]
  case cap l => simp [State.enables, exec_cap]
  case halt => simp [State.enables, exec_halt]
  case pollNop => simp [State.enables, exec_pollNop]
  case idleFall => simp [State.enables, exec_idleFall]
  case idleRise => simp [State.enables, exec_idleRise]
  case startFall => simp [State.enables, exec_startFall]
  case startRise => simp [State.enables, exec_startRise]
  case dataEdge l => simp [State.enables, exec_dataEdge]
  case dataFault => simp [State.enables, exec_dataFault]
  case copy0 => simp [State.enables, exec_copy0]
  case copy1 => simp [State.enables, exec_copy1]
  case copy2 => simp [State.enables, exec_copy2]
  case copy3 => simp [State.enables, exec_copy3]
  case copy4 => simp [State.enables, exec_copy4]
  case copy5 => simp [State.enables, exec_copy5]
  case copy6 => simp [State.enables, exec_copy6]
  case copy7 => simp [State.enables, exec_copy7]
  case clear => simp [State.enables, exec_clear]
  case tick => simp [State.enables, exec_tick]
  case periods => simp [State.enables, exec_periods]
  case shift b => simp [State.enables, exec_shift]
  case append => simp [State.enables, exec_append]
  case scanNohdr => simp [State.enables, exec_scanNohdr, ← State.hm_iff]
  case scanBadsum => simp [State.enables, exec_scanBadsum, ← State.hm_iff, ← State.cm_iff]
  case scanAccept => simp [State.enables, exec_scanAccept, ← State.hm_iff, ← State.cm_iff]
  case tAdv => simp [State.enables, exec_tAdv]
  case tBlank => simp [State.enables, exec_tBlank]
  case tCols => simp [State.enables, exec_tCols]
  case tSelect => simp [State.enables, exec_tSelect]

/-- A changed poll has an operation in each of the three decoder states (R150, R163). -/
theorem foregroundOp_of_changed {s : State} (hf : s.fault = false) (hfg : s.fg = fgPoll) (hch : s.obs ≠ s.last)
    (hst : s.st ≠ 3#2) : ∃ i, s.foregroundOp = some i ∧ s.enables i := by
  have hchanged : s.changed = true := (State.changed_iff s).2 hch
  have hcases : s.st = stIdle ∨ s.st = stStart ∨ s.st = stData := by
    revert hst; generalize s.st = st; revert st; decide
  rcases hcases with h | h | h
  · cases hl : s.obs.level
    · exact ⟨.idleFall, by simp [State.foregroundOp, foregroundChoice, hf, hfg, hchanged, h, hl], hf, hfg, hch, h, hl⟩
    · exact ⟨.idleRise, by simp [State.foregroundOp, foregroundChoice, hf, hfg, hchanged, h, hl], hf, hfg, hch, h, hl⟩
  · cases hl : s.obs.level
    · exact ⟨.startFall, by simp [State.foregroundOp, foregroundChoice, hf, hfg, hchanged, h, hl], hf, hfg, hch, h, hl⟩
    · exact ⟨.startRise, by simp [State.foregroundOp, foregroundChoice, hf, hfg, hchanged, h, hl], hf, hfg, hch, h, hl⟩
  · cases hz : s.bz
    · exact ⟨.dataEdge s.obs.level, by simp [State.foregroundOp, foregroundChoice, hf, hfg, hchanged, h, hz], hf, hfg, hch, h, rfl,
        (State.bz_false_iff s).1 hz⟩
    · exact ⟨.dataFault, by simp [State.foregroundOp, foregroundChoice, hf, hfg, hchanged, h, hz], hf, hfg, hch, h, (State.bz_iff s).1 hz⟩

/-- A legal phase other than `Poll` has its own operation, a copy or the clear (R186, R187). -/
theorem foregroundOp_of_phase {s : State} (hf : s.fault = false) (hfg : s.fg ≠ fgPoll) (hlegal : s.fg.toNat ≤ 9) :
    ∃ i, s.foregroundOp = some i ∧ s.enables i := by
  have hcases : s.fg = 1#4 ∨ s.fg = 2#4 ∨ s.fg = 3#4 ∨ s.fg = 4#4 ∨ s.fg = 5#4 ∨ s.fg = 6#4 ∨ s.fg = 7#4 ∨ s.fg = 8#4 ∨
      s.fg = 9#4 := by
    revert hfg hlegal; generalize s.fg = fg; revert fg; decide
  rcases hcases with h | h | h | h | h | h | h | h | h
  · exact ⟨.copy0, by simp [State.foregroundOp, foregroundChoice, hf, h], hf, h⟩
  · exact ⟨.copy1, by simp [State.foregroundOp, foregroundChoice, hf, h], hf, h⟩
  · exact ⟨.copy2, by simp [State.foregroundOp, foregroundChoice, hf, h], hf, h⟩
  · exact ⟨.copy3, by simp [State.foregroundOp, foregroundChoice, hf, h], hf, h⟩
  · exact ⟨.copy4, by simp [State.foregroundOp, foregroundChoice, hf, h], hf, h⟩
  · exact ⟨.copy5, by simp [State.foregroundOp, foregroundChoice, hf, h], hf, h⟩
  · exact ⟨.copy6, by simp [State.foregroundOp, foregroundChoice, hf, h], hf, h⟩
  · exact ⟨.copy7, by simp [State.foregroundOp, foregroundChoice, hf, h], hf, h⟩
  · exact ⟨.clear, by simp [State.foregroundOp, foregroundChoice, hf, h], hf, h⟩

/-- With a legal `st` and `fg` the foreground has an operation, and its condition holds (R119). -/
theorem foregroundOp_enabled {s : State} (hst : s.st ≠ 3#2) (hfg : s.fg.toNat ≤ 9) :
    ∃ i, s.foregroundOp = some i ∧ s.enables i := by
  cases hf : s.fault with
  | true => exact ⟨.halt, by simp [State.foregroundOp, foregroundChoice, hf], hf⟩
  | false =>
    by_cases hpoll : s.fg = fgPoll
    · by_cases hobs : s.obs = s.last
      · exact ⟨.pollNop, foregroundOp_pollNop hf hpoll hobs, hf, hpoll, hobs⟩
      · exact foregroundOp_of_changed hf hpoll hobs hst
    · exact foregroundOp_of_phase hf hpoll hfg

/-- Whatever acts has an operation whose condition holds, but for a "transition" to the line's own level (U11). -/
theorem opOf_enabled {s : State} (hst : s.st ≠ 3#2) (hfg : s.fg.toNat ≤ 9) {e : Trigger}
    (hcap : ∀ l, e = .lineTransition l → l ≠ s.line) : ∃ i, opOf e s = some i ∧ s.enables i := by
  cases e with
  | timerTick => exact ⟨.tmrInc, rfl, trivial⟩
  | lineTransition l => exact ⟨.cap l, rfl, hcap l rfl⟩
  | foreground => exact foregroundOp_enabled hst hfg
  | refreshTick => exact ⟨.tick, rfl, trivial⟩

/-- Settles O7: the invariant makes `st` and `fg` legal, so the next trigger's operation is enabled and completes. -/
theorem noReachableStateStops : Obligations.NoReachableStateStops := by
  intro s hinv hcfg hsched
  have hcap : ∀ l, s.schedule.headD .foreground = .lineTransition l → l ≠ s.line := by
    intro l hl
    cases h : s.schedule with
    | nil => rw [h] at hl; cases hl
    | cons e rest => rw [h] at hl; exact hsched l rest (h.trans (congrArg (· :: rest) hl))
  obtain ⟨i, hop, hen⟩ := opOf_enabled hinv.st_legal hinv.fg_legal hcap
  obtain ⟨t, ht⟩ := exec_completes_iff.2 hen
  exact ⟨_, (step_next_iff ⟨hcfg, hinv.no_sub⟩).2 ⟨i, hop, exec_setSchedule s.schedule.tail ht⟩⟩

/-! ## The timer between two captures -/

theorem foregroundChoice_agent {fl : Bool} {ph : BitVec 4} {st : BitVec 2} {ch lv bz : Bool} {i : Instr}
    (h : foregroundChoice fl ph st ch lv bz = some i) : i.agent = .foreground := by
  unfold foregroundChoice at h
  (repeat' split at h) <;> cases h <;> rfl

/-- A trigger runs an operation of its own agent (R112, R119). -/
theorem opOf_agent {e : Trigger} {s : State} {i : Instr} (h : opOf e s = some i) : i.agent = e.agent := by
  cases e with
  | foreground => exact foregroundChoice_agent h
  | timerTick | lineTransition l | refreshTick => cases h; rfl

/-- The foreground and the scanner leave the timer alone (R49, R235). -/
theorem tcnt_of_other_agent {i : Instr} {s t : State} (he : exec i s = .next t) (hEnv : i.agent ≠ .env)
    (hEdge : i.agent ≠ .edgeCapture) : t.tcnt = s.tcnt := by
  obtain ⟨-, -, hinput, -⟩ := agentsWriteOnlyTheirCells i s t he
  obtain ⟨-, -, htcnt⟩ := hinput hEnv hEdge
  exact htcnt

/-- What one trigger that is no transition adds to the timer: one, if it is a timer tick (R140). -/
theorem tcnt_of_trigger {e : Trigger} {s t : State} {i : Instr} (hop : opOf e s = some i) (he : exec i s = .next t)
    (hcap : ∀ l, e ≠ .lineTransition l) : t.tcnt = s.tcnt + BitVec.ofNat Config.timerWidth ([e].count .timerTick) := by
  have hagent := opOf_agent hop
  cases e with
  | lineTransition l => exact absurd rfl (hcap l)
  | timerTick => cases hop; rw [exec_tmrInc.1 he]; rfl
  | foreground | refreshTick =>
    rw [tcnt_of_other_agent he (by simp [hagent, Trigger.agent]) (by simp [hagent, Trigger.agent])]
    exact (BitVec.add_zero _).symm

/-- Between two transitions the timer counts the timer ticks, modulo `2^TW`, whatever else runs (R85 item 4). -/
theorem tcnt_afterStimulus {s t : State} {between : List Trigger} (hr : s.running)
    (hcap : ∀ e ∈ between, ∀ l, e ≠ .lineTransition l) (h : afterStimulus between s = .next t) :
    t.tcnt = s.tcnt + BitVec.ofNat Config.timerWidth (between.count .timerTick) := by
  induction between generalizing s with
  | nil => cases h; exact (BitVec.add_zero _).symm
  | cons e rest ih =>
    obtain ⟨i, u, hop, he, hru, hrest⟩ := (afterStimulus_cons hr).1 h
    have hcount : (e :: rest).count .timerTick = [e].count .timerTick + rest.count .timerTick :=
      List.count_append (l₁ := [e])
    calc t.tcnt = u.tcnt + BitVec.ofNat _ (rest.count .timerTick) :=
          ih hru (fun e' he' => hcap e' (List.mem_cons_of_mem e he')) hrest
      _ = s.tcnt + BitVec.ofNat _ ([e].count .timerTick) + BitVec.ofNat _ (rest.count .timerTick) := by
          rw [tcnt_of_trigger hop he (hcap e List.mem_cons_self)]
      _ = s.tcnt + BitVec.ofNat _ ((e :: rest).count .timerTick) := by
          rw [BitVec.add_assoc, ← BitVec.ofNat_add, hcount]

/-- Settles O12: the capture records the timer, which has counted the ticks from 0, and zeroes it. -/
theorem intervalIsTheNumberOfTicks : Obligations.IntervalIsTheNumberOfTicks := by
  intro s t between l hr hzero hcap h
  obtain ⟨u, hbetween, hru, hlast⟩ := (afterStimulus_append hr).1 h
  have htcnt : u.tcnt = BitVec.ofNat Config.timerWidth (between.count .timerTick) := by
    rw [tcnt_afterStimulus hr hcap hbetween, hzero, BitVec.zero_add]
  obtain ⟨i, v, hop, he, -, hv⟩ := (afterStimulus_cons hru).1 hlast
  cases hop
  obtain ⟨-, rfl⟩ := exec_cap.1 he
  cases hv
  exact ⟨congrArg (Observation.mk l) htcnt, rfl⟩

end Sys2Proof.Machine

/-!
The selector words (spec/30_encoding.md R112 to R119): what the decoder makes of every word, how the encoder answers it, and that the
selected operation is the one whose condition holds.
-/

namespace Sys2Proof

/-! ## The decoder and the encoder -/

/-- An operand bit outside the fixed digits of a pattern is compared by itself. -/
theorem and_or_bitAt_eq_iff {n k : Nat} (hk : k < n) {w m v : BitVec n} (hm : m.getLsbD k = false) (hv : v.getLsbD k = false)
    (b : Bool) : w &&& (m ||| bitAt n k true) = v ||| bitAt n k b ↔ w &&& m = v ∧ w.getLsbD k = b := by
  have hbit : ∀ (c : Bool) (j : Nat), (bitAt n k c).getLsbD j = (c && decide (j = k)) := by
    intro c j
    cases c
    · simp [bitAt]
    · simp only [bitAt, if_true, BitVec.getLsbD_shiftLeft, BitVec.getLsbD_one, Bool.true_and]
      by_cases hj : j = k
      · subst hj; simp; omega
      · simp [hj]; omega
  constructor
  · intro h
    have hj : ∀ j, (w.getLsbD j && (m.getLsbD j || decide (j = k))) = (v.getLsbD j || (b && decide (j = k))) := by
      intro j
      have := congrArg (fun x => x.getLsbD j) h
      simpa [hbit] using this
    refine ⟨BitVec.eq_of_getLsbD_eq fun j _ => ?_, by simpa [hm, hv] using hj k⟩
    by_cases hjk : j = k
    · subst hjk; simp [hm, hv]
    · simpa [hjk] using hj j
  · rintro ⟨rfl, rfl⟩
    refine BitVec.eq_of_getLsbD_eq fun j _ => ?_
    by_cases hjk : j = k
    · subst hjk; simp [hbit]; tauto
    · simp [hbit, hjk]

/-- The pattern of an operation is the mask and the value of its row of R113, with the operand bit in place. -/
theorem decodeTop_iff_matchesPattern (w : BitVec 12) (i : Instr) :
    decodeTop w = .ok i ↔ matchesPattern (.top w) i = true := by
  rw [decodeTop_ok_iff]
  cases i
  case cap l =>
    have := and_or_bitAt_eq_iff (k := 2) (by decide) (w := w) (m := 0xC00#12) (v := 0x400#12) (by decide) (by decide) l
    simpa [topTable, SelRow.covers_iff, matchesPattern, careMask, encode, bitAt] using this.symm
  case dataEdge l =>
    have := and_or_bitAt_eq_iff (k := 2) (by decide) (w := w) (m := 0xFFB#12) (v := 0x828#12) (by decide) (by decide) l
    simpa [topTable, SelRow.covers_iff, matchesPattern, careMask, encode, bitAt] using this.symm
  all_goals simp [topTable, SelRow.covers_iff, matchesPattern, careMask, encode]

/-- The pattern of a sub-operation is the mask and the value of its row of R115, with the operand bit in place. -/
theorem decodeSub_iff_matchesPattern (w : BitVec 8) (i : Instr) :
    decodeSub w = .ok i ↔ matchesPattern (.sub w) i = true := by
  rw [decodeSub_ok_iff]
  cases i
  case shift b =>
    have := and_or_bitAt_eq_iff (k := 0) (by decide) (w := w) (m := 0xFE#8) (v := 0x20#8) (by decide) (by decide) b
    simpa [subTable, SelRow.covers_iff, matchesPattern, careMask, encode, bitAt] using this.symm
  all_goals simp [subTable, SelRow.covers_iff, matchesPattern, careMask, encode]

theorem decode_iff_matchesPattern (w : SelWord) (i : Instr) : decode w = .ok i ↔ matchesPattern w i = true := by
  cases w with
  | top w => exact decodeTop_iff_matchesPattern w i
  | sub w => exact decodeSub_iff_matchesPattern w i

theorem matchesPattern_encode (i : Instr) : matchesPattern (encode i) i = true := by
  cases i
  case cap l => exact (Laws.EncodeWellFormed.cap l rfl).2
  case dataEdge l => exact (Laws.EncodeWellFormed.dataEdge l rfl).2
  case shift b => exact (Laws.EncodeWellFormed.shift b rfl).2
  all_goals rfl

theorem decode_encode (i : Instr) : decode (encode i) = .ok i := (decode_iff_matchesPattern _ _).2 (matchesPattern_encode i)

/-- Settles O1: a row's mask and value are its pattern, and an encoding has the pattern of its own row. -/
theorem decodeAndEncodeAgree : Obligations.DecodeAndEncodeAgree :=
  ⟨fun i _ => decode_encode i, decode_iff_matchesPattern⟩

/-- Settles O3: each word is looked up in its table. -/
theorem sampleSelectorWordsDecode : Obligations.SampleSelectorWordsDecode :=
  ⟨rfl, rfl, rfl, rfl, rfl, rfl, rfl, rfl, rfl, rfl, rfl, rfl⟩

end Sys2Proof

namespace Sys2Proof.Machine

/-! ## The words of no row -/

/-- R119 leaves the foreground without an operation in the two cases of R116 only. -/
theorem foregroundChoice_eq_none_iff {fl : Bool} {ph : BitVec 4} {st : BitVec 2} {ch lv bz : Bool} :
    foregroundChoice fl ph st ch lv bz = none ↔ fl = false ∧ (ph = 0#4 ∧ ch = true ∧ st = 3#2 ∨ 10 ≤ ph.toNat) := by
  have hph : ph = 0#4 ↔ ph.toNat = 0 := BitVec.toNat_inj.symm
  have hst : st = 3#2 ↔ st.toNat = 3 := BitVec.toNat_inj.symm
  have hlt : st.toNat < 4 := st.isLt
  rw [hph, hst]
  unfold foregroundChoice
  generalize ph.toNat = p at *
  generalize st.toNat = q at *
  cases fl with
  | true => simp
  | false =>
    match p with
    | 0 =>
      cases ch with
      | false => simp
      | true =>
        match q, hlt with
        | 0, _ | 1, _ | 2, _ | 3, _ => simp
    | 1 | 2 | 3 | 4 | 5 | 6 | 7 | 8 | 9 => simp
    | p + 10 => simp

/-- A selector word is the packing of its fields (R112). -/
theorem packSelector_fields (w : BitVec 12) :
    packSelector (selAG w) (selPH w) (selST w) (selCH w) (selLV w) (selBZ w) (selFL w) = w := by
  refine BitVec.eq_of_getLsbD_eq fun j hj => ?_
  simp only [packSelector, BitVec.getLsbD_append, BitVec.getLsbD_extractLsb', BitVec.getLsbD_ofBool]
  interval_cases j <;> simp

/-- A word of an agent other than the foreground is of that agent's row, whatever its other fields are (R113). -/
theorem lookup_of_selAG_ne {w : BitVec 12} (h : selAG w ≠ 2#2) : lookup w topTable ≠ none := by
  have hmask : w &&& 0xC00#12 = selAG w ++ 0#10 := by
    refine BitVec.eq_of_getLsbD_eq fun j hj => ?_
    simp only [BitVec.getLsbD_append, BitVec.getLsbD_extractLsb', BitVec.getLsbD_and]
    interval_cases j <;> simp
  have hcases : selAG w = 0#2 ∨ selAG w = 1#2 ∨ selAG w = 3#2 := by
    revert h; generalize selAG w = ag; revert ag; decide
  intro hnone
  rw [lookup_none_iff] at hnone
  rcases hcases with h | h | h
  · have := hnone ⟨0xC00#12, 0x000#12, fun _ => .tmrInc⟩ (by simp [topTable])
    simp [SelRow.covers, hmask, h] at this
  · have := hnone ⟨0xC00#12, 0x400#12, fun w => .cap (selLV w)⟩ (by simp [topTable])
    simp [SelRow.covers, hmask, h] at this
  · have := hnone ⟨0xC00#12, 0xC00#12, fun _ => .tick⟩ (by simp [topTable])
    simp [SelRow.covers, hmask, h] at this

/-- The 12-bit words of no row. -/
theorem decodeTop_noTopRow_iff (w : BitVec 12) : decodeTop w = .error .noTopRow ↔ topUnlisted w = true := by
  rw [decodeTop_error_iff, ← lookup_none_iff]
  simp only [true_and]
  by_cases hag : selAG w = 2#2
  · have hw := packSelector_fields w
    rw [hag] at hw
    rw [← hw, lookup_foreground, hw, foregroundChoice_eq_none_iff]
    simp [topUnlisted, hag, and_assoc]
  · simp [topUnlisted, hag, lookup_of_selAG_ne hag]

theorem lookup_subTable_none_all : ∀ w : Fin 256,
    lookup (BitVec.ofFin w : BitVec 8) subTable = none ↔ subUnlisted (BitVec.ofFin w) = true := by
  decide +kernel

/-- The 8-bit words of no row. -/
theorem decodeSub_noSubRow_iff (w : BitVec 8) : decodeSub w = .error .noSubRow ↔ subUnlisted w = true := by
  rw [decodeSub_error_iff, ← lookup_none_iff]
  simp only [true_and]
  exact lookup_subTable_none_all w.toFin

/-- A sub-operation selector presented alone is looked at before the schedule. -/
theorem fetch_sub {s : State} {w : BitVec 8} {i : Instr} (hcfg : s.cfg = BringUp.complete) (hsub : s.subSel = some w)
    (hdec : decodeSub w = .ok i) : fetch s = .ok (i, s.setSubSel none) := by
  simp [fetch, hcfg, hsub, hdec]

theorem fetch_sub_refused {s : State} {w : BitVec 8} {e : DecodeError} (hcfg : s.cfg = BringUp.complete)
    (hsub : s.subSel = some w) (hdec : decodeSub w = .error e) : fetch s = .error (.noSubRow w) := by
  simp [fetch, hcfg, hsub, hdec]

/-- Settles O2: a word is of no row exactly in R116's cases, and `fetch` names it. -/
theorem selectorsOfNoRowAreRefused : Obligations.SelectorsOfNoRowAreRefused := by
  refine ⟨decodeTop_noTopRow_iff, decodeSub_noSubRow_iff, fun s hr h => ?_, fun s w hcfg hsub h => ?_⟩
  · rw [step, fetch_top hr, (decodeTop_noTopRow_iff _).2 h]
  · rw [step, fetch_sub_refused hcfg hsub ((decodeSub_noSubRow_iff w).2 h)]

/-- Settles O4: `step` is `fetch`, then `exec`. -/
theorem stepRunsTheSelectedOperation : Obligations.StepRunsTheSelectedOperation := by
  refine ⟨fun s h => nextTrigger_nil h, fun s e rest h => nextTrigger_cons h, fun s i _ hr hdec => ?_,
    fun s i w _ hcfg hsub hdec => ?_⟩
  · rw [step, fetch_top hr, hdec]
  · rw [step, fetch_sub hcfg hsub hdec]; rfl

/-- Settles O56: the level stands above the `TW` bits of the interval. -/
theorem observationWord : Obligations.ObservationWord := by
  refine ⟨fun o => ?_, by decide, by decide⟩
  have hlt : o.interval.toNat < 2 ^ Config.timerWidth := o.interval.isLt
  cases h : o.level with
  | false => simp [Observation.word, h, BitVec.toNat_append]
  | true =>
    simp only [Observation.word, h, if_true, BitVec.toNat_append]
    rw [← Nat.shiftLeft_add_eq_or_of_lt hlt]; rfl


/-! ## The selected operation and the enabled operation -/

/-- R119: a top-level foreground operation whose condition holds is the one the selector names. -/
theorem foregroundOp_of_enables {s : State} {i : Instr} (htop : i.isTop = true) (hag : i.agent = .foreground)
    (hen : s.enables i) : s.foregroundOp = some i := by
  have hchanged : s.obs ≠ s.last → s.changed = true := (State.changed_iff s).2
  cases i
  case halt => have hf : s.fault = true := hen; simp [State.foregroundOp, foregroundChoice, hf]
  case pollNop => obtain ⟨hf, hfg, hobs⟩ := hen; exact foregroundOp_pollNop hf hfg hobs
  case idleFall =>
    obtain ⟨hf, hfg, hobs, hst, hl⟩ := hen
    simp [State.foregroundOp, foregroundChoice, hf, hfg, hchanged hobs, hst, hl]
  case idleRise =>
    obtain ⟨hf, hfg, hobs, hst, hl⟩ := hen
    simp [State.foregroundOp, foregroundChoice, hf, hfg, hchanged hobs, hst, hl]
  case startFall =>
    obtain ⟨hf, hfg, hobs, hst, hl⟩ := hen
    simp [State.foregroundOp, foregroundChoice, hf, hfg, hchanged hobs, hst, hl]
  case startRise =>
    obtain ⟨hf, hfg, hobs, hst, hl⟩ := hen
    simp [State.foregroundOp, foregroundChoice, hf, hfg, hchanged hobs, hst, hl]
  case dataEdge l =>
    obtain ⟨hf, hfg, hobs, hst, hl, hbw⟩ := hen
    simp [State.foregroundOp, foregroundChoice, hf, hfg, hchanged hobs, hst, hl, (State.bz_false_iff s).2 hbw]
  case dataFault =>
    obtain ⟨hf, hfg, hobs, hst, hbw⟩ := hen
    simp [State.foregroundOp, foregroundChoice, hf, hfg, hchanged hobs, hst, (State.bz_iff s).2 hbw]
  case copy0 | copy1 | copy2 | copy3 | copy4 | copy5 | copy6 | copy7 | clear =>
    obtain ⟨hf, hfg⟩ := hen
    simp [State.foregroundOp, foregroundChoice, hf, hfg]
  case tmrInc | cap | tick => cases hag
  all_goals cases htop

/-- Settles O6: the selected operation is enabled, and every enabled one is the selected one. -/
theorem foregroundHasExactlyOneOperation : Obligations.ForegroundHasExactlyOneOperation := by
  intro s hst hfg
  obtain ⟨i, hop, hen⟩ := foregroundOp_enabled hst hfg
  refine ⟨i, (decodeTop_foreground s i).2 hop, foregroundChoice_isTop hop, foregroundChoice_agent hop,
    exec_completes_iff.2 hen, fun j htop hag hj => ?_⟩
  exact Option.some.inj ((foregroundOp_of_enables htop hag (exec_completes_iff.1 hj)).symm.trans hop)

/-! ## The stops -/

theorem runWhen_next_or_refused (c : Bool) (op : Instr) (r : State) :
    (∃ t, runWhen c op r = .next t) ∨ runWhen c op r = .refused (.notEnabled op) := by
  cases c
  · exact .inr rfl
  · exact .inl ⟨r, rfl⟩

/-- No other operation than `CAP` and `PERIODS` has a stop of its own. -/
theorem exec_next_or_notEnabled {i : Instr} (hcap : ∀ l, i ≠ .cap l) (hper : i ≠ .periods) (s : State) :
    (∃ t, exec i s = .next t) ∨ exec i s = .refused (.notEnabled i) := by
  cases i
  case cap l => exact absurd rfl (hcap l)
  case periods => exact absurd rfl hper
  case tmrInc | tick | shift | append | tAdv | tBlank | tCols | tSelect => exact .inl ⟨_, rfl⟩
  all_goals exact runWhen_next_or_refused ..

/-- Settles O9: `runWhen` is the one way to be refused as not enabled; `CAP` and `PERIODS` have a name of their own. -/
theorem stopsAreNamed : Obligations.StopsAreNamed := by
  refine fun s => ⟨fun i => ?_, fun i hi => exec_completes_iff.2 ?_⟩
  · by_cases hen : s.enables i
    · exact .inl ⟨hen, exec_completes_iff.2 hen⟩
    · right
      by_cases hper : i = .periods
      · subst hper
        have hbw : s.bw = 0#16 := not_not.1 hen
        exact .inr (.inr ⟨rfl, hbw, if_pos ((State.bz_iff s).2 hbw)⟩)
      by_cases hcap : ∀ l, i ≠ .cap l
      · rcases exec_next_or_notEnabled hcap hper s with h | h
        · exact absurd (exec_completes_iff.1 h) hen
        · exact .inl ⟨hen, hcap, hper, h⟩
      · push Not at hcap
        obtain ⟨l, rfl⟩ := hcap
        have hl : l = s.line := not_not.1 hen
        exact .inr (.inl ⟨l, rfl, hl, if_neg (by simp [hl])⟩)
  · fin_cases hi <;> trivial

/-! ## Placing a selector -/

/-- A running block whose next trigger names `i` fetches it with that trigger taken off the schedule. -/
theorem fetch_of_opOf {s : State} {e : Trigger} {rest : List Trigger} {i : Instr} (hr : s.running)
    (hsched : s.schedule = e :: rest) (hop : opOf e s = some i) : fetch s = .ok (i, s.setSchedule rest) := by
  have hdec : decodeTop (selector e (s.setSchedule rest)) = .ok i := by
    rw [decodeTop_selector, opOf_setSchedule, hop]
  rw [fetch_top hr, nextTrigger_cons hsched]
  simp [hdec]

/-- The next trigger of the running block names `i`, whose condition holds. -/
def State.ready (s : State) (i : Instr) : Prop :=
  s.running ∧ s.enables i ∧ ∃ (e : Trigger) (rest : List Trigger), s.schedule = e :: rest ∧ opOf e s = some i

theorem State.ready_foreground {s : State} {i : Instr} (hr : s.running) {rest : List Trigger}
    (hsched : s.schedule = .foreground :: rest) (htop : i.isTop = true) (hag : i.agent = .foreground) (hen : s.enables i) :
    s.ready i :=
  ⟨hr, hen, .foreground, rest, hsched, foregroundOp_of_enables htop hag hen⟩

/-- `placePoll` writes the cells that a poll computes `ST`, `CH`, `LV` and `BZ` from, so that they are those of the word. -/
theorem State.placePoll_cells (s : State) (w : BitVec 12) :
    (s.placePoll w).st = selST w ∧
      (selCH w = false → (s.placePoll w).obs = (s.placePoll w).last) ∧
      (selCH w = true → (s.placePoll w).obs ≠ (s.placePoll w).last ∧ (s.placePoll w).obs.level = selLV w) ∧
      (selCH w = true → selST w = stData → ((s.placePoll w).bw = 0#16 ↔ selBZ w = true)) := by
  unfold State.placePoll
  generalize selCH w = ch
  generalize selLV w = lv
  generalize selBZ w = bz
  cases ch with
  | false => simp [State.sawObs]
  | true =>
    by_cases hst : selST w = stData
    · cases bz with
      | true => simp [hst]
      | false => by_cases hbw : s.bw = 0#16 <;> simp [hst, hbw]
    · simp [hst]

/-- What `placePoll` keeps of the cells that the rest of the selector is computed from. -/
theorem State.placePoll_frame (s : State) (w : BitVec 12) :
    (s.placePoll w).fault = s.fault ∧ (s.placePoll w).fg = s.fg ∧ (s.placePoll w).cfg = s.cfg ∧
      (s.placePoll w).subSel = s.subSel ∧ (s.placePoll w).schedule = s.schedule := by
  simp only [State.placePoll, State.sawObs]
  (repeat' split) <;> exact ⟨rfl, rfl, rfl, rfl, rfl⟩

/-- A word of the foreground without `FL`, placed: the phase is set, and then the decoder's cells if it is `Poll`. -/
theorem State.placeTop_foreground (s : State) {w : BitVec 12} (hag : selAG w = 2#2) (hfl : selFL w = false) :
    ∃ u : State, u.running ∧ u.schedule = .foreground :: s.schedule ∧ u.fault = false ∧ u.fg = selPH w ∧
      s.placeTop w = if selPH w = fgPoll then u.placePoll w else u := by
  refine ⟨((((s.setCfg BringUp.complete).setSubSel none).setSchedule (.foreground :: s.schedule)).setFault false).setFg
    (selPH w), ⟨rfl, rfl⟩, rfl, rfl, rfl, ?_⟩
  unfold State.placeTop
  rw [hag, hfl]
  rfl

/-- A word of the foreground without `FL` is placed by the phase alone, unless it is that of a poll. -/
theorem State.ready_placeTop (s : State) {i : Instr} {w : BitVec 12} (hag : selAG w = 2#2) (hfl : selFL w = false)
    (htop : i.isTop = true) (hagent : i.agent = .foreground)
    (hen : ∀ u : State, u.fault = false → u.fg = selPH w → u.enables i) : (s.placeTop w).ready i := by
  obtain ⟨u, hr, hsched, hf, hfg, hu⟩ := s.placeTop_foreground hag hfl
  rw [hu]
  split
  · obtain ⟨hf', hfg', hcfg', hsub', hsched'⟩ := u.placePoll_frame w
    exact ready_foreground ⟨hcfg'.trans hr.1, hsub'.trans hr.2⟩ (hsched'.trans hsched) htop hagent
      (hen _ (hf'.trans hf) (hfg'.trans hfg))
  · exact ready_foreground hr hsched htop hagent (hen u hf hfg)

/-- The word of a poll is placed by the decoder's cells too. -/
theorem State.ready_placeTop_poll (s : State) {i : Instr} {w : BitVec 12} (hag : selAG w = 2#2) (hfl : selFL w = false)
    (hph : selPH w = fgPoll) (htop : i.isTop = true) (hagent : i.agent = .foreground)
    (hen : ∀ u : State, u.fault = false → u.fg = fgPoll → u.st = selST w →
      (selCH w = false → u.obs = u.last) → (selCH w = true → u.obs ≠ u.last ∧ u.obs.level = selLV w) →
      (selCH w = true → selST w = stData → (u.bw = 0#16 ↔ selBZ w = true)) → u.enables i) : (s.placeTop w).ready i := by
  obtain ⟨u, hr, hsched, hf, hfg, hu⟩ := s.placeTop_foreground hag hfl
  rw [hu, if_pos hph]
  obtain ⟨hf', hfg', hcfg', hsub', hsched'⟩ := u.placePoll_frame w
  obtain ⟨hst, hsame, hch, hbw⟩ := u.placePoll_cells w
  exact ready_foreground ⟨hcfg'.trans hr.1, hsub'.trans hr.2⟩ (hsched'.trans hsched) htop hagent
    (hen _ (hf'.trans hf) (hfg'.trans (hfg.trans hph)) hst hsame hch hbw)

/-- The word of every top-level operation, placed, leaves the block ready for it. -/
theorem ready_placeTop_encode (s : State) {i : Instr} {w : BitVec 12} (hw : encode i = .top w) : (s.placeTop w).ready i := by
  cases i
  case tmrInc => cases hw; exact ⟨⟨rfl, rfl⟩, trivial, .timerTick, s.schedule, rfl, rfl⟩
  case tick => cases hw; exact ⟨⟨rfl, rfl⟩, trivial, .refreshTick, s.schedule, rfl, rfl⟩
  case cap l =>
    cases l <;> cases hw
    · exact ⟨⟨rfl, rfl⟩, Bool.false_ne_true, .lineTransition false, s.schedule, rfl, rfl⟩
    · exact ⟨⟨rfl, rfl⟩, Bool.false_ne_true.symm, .lineTransition true, s.schedule, rfl, rfl⟩
  case halt => cases hw; exact State.ready_foreground ⟨rfl, rfl⟩ (rest := s.schedule) rfl rfl rfl rfl
  case copy0 | copy1 | copy2 | copy3 | copy4 | copy5 | copy6 | copy7 | clear =>
    cases hw
    exact s.ready_placeTop rfl rfl rfl rfl fun u hf hfg => ⟨hf, hfg⟩
  case pollNop =>
    cases hw
    exact s.ready_placeTop_poll rfl rfl rfl rfl rfl fun u hf hfg _ hsame _ _ => ⟨hf, hfg, hsame rfl⟩
  case idleFall | idleRise | startFall | startRise =>
    cases hw
    exact s.ready_placeTop_poll rfl rfl rfl rfl rfl fun u hf hfg hst _ hch _ => ⟨hf, hfg, (hch rfl).1, hst, (hch rfl).2⟩
  case dataFault =>
    cases hw
    exact s.ready_placeTop_poll rfl rfl rfl rfl rfl fun u hf hfg hst _ hch hbw =>
      ⟨hf, hfg, (hch rfl).1, hst, (hbw rfl rfl).2 rfl⟩
  case dataEdge l =>
    cases l <;> cases hw
    all_goals exact s.ready_placeTop_poll rfl rfl rfl rfl rfl fun u hf hfg hst _ hch hbw =>
      ⟨hf, hfg, (hch rfl).1, hst, (hch rfl).2, fun h => absurd ((hbw rfl rfl).1 h) (by decide)⟩
  all_goals cases hw

/-! ## Placing a sub-operation selector -/

/-- A write to one place of the window. -/
theorem State.win_ringWrite (s : State) (v : Byte) {j k : Nat} (hj : j < 11) (hk : k < 11) :
    (s.ringWrite (ringIndex s.cur j) v).win k = if k = j then v else s.win k := by
  have hc := s.cur.isLt
  have hiff : (s.cur.val + k) % 11 = (s.cur.val + j) % 11 ↔ k = j := by omega
  simp only [State.ringWrite, State.win_eq, State.setRing_ring, State.setRing_cur, Memory.read_write, ringIndex_val, hiff]

/-- The last place of the window is no part of its header and of its checksum. -/
theorem State.checksum_ringWrite_last (s : State) (v : Byte) :
    (s.ringWrite (ringIndex s.cur 10) v).checksum = s.checksum := by
  simp [State.checksum, State.winXor, State.win_ringWrite]

theorem State.hm_ringWrite_last (s : State) (v : Byte) : (s.ringWrite (ringIndex s.cur 10) v).hm = s.hm := by
  simp [State.hm, State.win_ringWrite]

/-- The header written where the window begins. -/
theorem State.hm_ringWrite_header (s : State) :
    ((s.ringWrite (ringIndex s.cur 0) Config.header0).ringWrite (ringIndex s.cur 1) Config.header1).hm = true := by
  have hwin : ∀ k, k < 11 →
      ((s.ringWrite (ringIndex s.cur 0) Config.header0).ringWrite (ringIndex s.cur 1) Config.header1).win k =
        if k = 1 then Config.header1 else if k = 0 then Config.header0 else s.win k := by
    intro k hk
    have h := State.win_ringWrite (s.ringWrite (ringIndex s.cur 0) Config.header0) Config.header1 (j := 1) (by decide) hk
    rw [State.win_ringWrite s _ (by decide) hk] at h
    exact h
  simp [State.hm, hwin]

/-- `placeScan` makes `hm` the bit `HM` of the word, and `cm` its bit `CM` where the header matches. -/
theorem State.placeScan_flags (s : State) (w : BitVec 8) :
    (s.placeScan w).hm = subHM w ∧ (subHM w = true → (s.placeScan w).cm = subCM w) := by
  unfold State.placeScan
  generalize subHM w = h
  generalize subCM w = c
  cases h with
  | false =>
    cases hhm : s.hm with
    | false => simp [hhm]
    | true => simp [State.hm, State.win_ringWrite, show (0#8 : Byte) ≠ Config.header0 by decide]
  | true =>
    have hhm := s.hm_ringWrite_header
    generalize (s.ringWrite (ringIndex s.cur 0) Config.header0).ringWrite (ringIndex s.cur 1) Config.header1 = u at hhm
    simp only [if_true, forall_const]
    by_cases hcm : u.cm = c
    · simp [hcm, hhm]
    · rw [if_neg hcm, State.hm_ringWrite_last, hhm]
      refine ⟨rfl, ?_⟩
      rw [State.cm, State.checksum_ringWrite_last, State.win_ringWrite _ _ (by decide) (by decide), if_pos rfl]
      cases c with
      | true => simp
      | false =>
        have hflip : u.checksum ≠ u.checksum ^^^ 1#8 := fun h => by simpa using congrArg (u.checksum ^^^ ·) h
        simpa using hflip

/-- `placeScan` writes the ring only. -/
theorem State.placeScan_frame (s : State) (w : BitVec 8) : ∃ m, s.placeScan w = s.setRing m := by
  unfold State.placeScan
  split
  · dsimp only
    split <;> exact ⟨_, rfl⟩
  · split
    · exact ⟨_, rfl⟩
    · exact ⟨s.ring, rfl⟩

/-- The word of a scan, placed, presents it alone with `hm` and `cm` as the word has them. -/
theorem State.placeSub_scan (s : State) {w : BitVec 8} (hid : subID w = 4#4) :
    ((s.placeSub w).cfg = BringUp.complete ∧ (s.placeSub w).subSel = some w) ∧
      ((s.placeSub w).setSubSel none).hm = subHM w ∧
      (subHM w = true → ((s.placeSub w).setSubSel none).cm = subCM w) := by
  have hplace : s.placeSub w = ((s.setCfg BringUp.complete).setSubSel (some w)).placeScan w := by
    unfold State.placeSub
    rw [hid]
    rfl
  obtain ⟨m, hframe⟩ := ((s.setCfg BringUp.complete).setSubSel (some w)).placeScan_frame w
  rw [hplace]
  exact ⟨by rw [hframe]; exact ⟨rfl, rfl⟩, State.placeScan_flags _ w⟩

/-- The word of every sub-operation, placed, presents it alone with its condition met. -/
theorem enables_placeSub_encode (s : State) {i : Instr} {w : BitVec 8} (hw : encode i = .sub w) :
    ((s.placeSub w).cfg = BringUp.complete ∧ (s.placeSub w).subSel = some w) ∧
      ((s.placeSub w).setSubSel none).enables i := by
  cases i
  case periods =>
    cases hw
    by_cases hbw : s.bw = 0#16 <;> simp [State.placeSub, State.enables, hbw, subID]
  case shift b => cases b <;> cases hw <;> exact ⟨⟨rfl, rfl⟩, trivial⟩
  case append | tAdv | tBlank | tCols | tSelect => cases hw; exact ⟨⟨rfl, rfl⟩, trivial⟩
  case scanNohdr =>
    cases hw
    obtain ⟨hsub, hhm, -⟩ := s.placeSub_scan (w := 0x40#8) rfl
    exact ⟨hsub, mt (State.hm_iff _).2 (by rw [hhm]; decide)⟩
  case scanBadsum =>
    cases hw
    obtain ⟨hsub, hhm, hcm⟩ := s.placeSub_scan (w := 0x42#8) rfl
    exact ⟨hsub, (State.hm_iff _).1 hhm, mt (State.cm_iff _).2 (by rw [hcm rfl]; decide)⟩
  case scanAccept =>
    cases hw
    obtain ⟨hsub, hhm, hcm⟩ := s.placeSub_scan (w := 0x43#8) rfl
    exact ⟨hsub, (State.hm_iff _).1 hhm, (State.cm_iff _).1 (hcm rfl)⟩
  all_goals cases hw

/-- Settles O5: a placed word is fetched, and its operation's condition holds in the state it is placed in. -/
theorem everyRowCanBeTheNextOperation : Obligations.EveryRowCanBeTheNextOperation := by
  intro s i
  suffices h : ∃ s', fetch (s.withFetchWord (encode i).tableBits (encode i).toNat) = .ok (i, s') ∧ s'.enables i by
    obtain ⟨s', hfetch, hen⟩ := h
    obtain ⟨t, ht⟩ := exec_completes_iff.2 hen
    exact ⟨s', t, hfetch, ht, by rw [step, hfetch]; exact ht⟩
  cases hw : encode i with
  | top w =>
    have hplace : s.withFetchWord (SelWord.top w).tableBits (SelWord.top w).toNat = s.placeTop w := by
      simp [State.withFetchWord, State.placeWord, SelWord.tableBits, SelWord.toNat]
    obtain ⟨hr, hen, e, rest, hsched, hop⟩ := ready_placeTop_encode s hw
    rw [hplace]
    refine ⟨_, fetch_of_opOf hr hsched hop, ?_⟩
    obtain ⟨t, ht⟩ := exec_completes_iff.2 hen
    exact exec_completes_iff.1 ⟨_, exec_setSchedule rest ht⟩
  | sub w =>
    have hplace : s.withFetchWord (SelWord.sub w).tableBits (SelWord.sub w).toNat = s.placeSub w := by
      simp [State.withFetchWord, State.placeWord, SelWord.tableBits, SelWord.toNat]
    obtain ⟨⟨hcfg, hsub⟩, hen⟩ := enables_placeSub_encode s hw
    have hdec : decodeSub w = .ok i := by rw [← decode_encode i, hw]; rfl
    rw [hplace]
    exact ⟨_, fetch_sub hcfg hsub hdec, hen⟩

end Sys2Proof.Machine

/-!
The signal (spec/30_encoding.md R101, R106 to R109): the checksum of a frame and the edges of a byte.
-/

namespace Sys2Proof.Machine

/-! ## The checksum -/

/-- Settles O37: XOR folds from any start, the header XORs to 0xFF, and equal halves cancel. -/
theorem checksumOfAFrame : Obligations.ChecksumOfAFrame := by
  intro payload
  have hfold : ∀ x : Byte, payload.foldl (· ^^^ ·) x = x ^^^ payload.foldl (· ^^^ ·) 0#8 := fun x => by
    rw [← List.foldl_assoc (op := (· ^^^ · : Byte → Byte → Byte)), BitVec.xor_zero]
  have hsum : payloadChecksum payload = (Config.header0 ^^^ Config.header1) ^^^ payload.foldl (· ^^^ ·) 0#8 := hfold _
  refine ⟨?_, ?_⟩
  · rw [hsum, ← BitVec.allOnes_xor]; rfl
  · calc (frameBytes payload).foldl (· ^^^ ·) 0#8
        = payload.foldl (· ^^^ ·) (0#8 ^^^ Config.header0 ^^^ Config.header1) ^^^ payloadChecksum payload := by
          simp only [frameBytes, List.foldl_append, List.foldl_cons, List.foldl_nil]
      _ = payloadChecksum payload ^^^ payloadChecksum payload := by rw [BitVec.zero_xor]; rfl
      _ = 0#8 := BitVec.xor_self

/-! ## The edges of a byte -/

theorem edgesOf_same (width : Nat) (level : Level) (run : Nat) (rest : List Level) :
    edgesOf width level run (level :: rest) = edgesOf width level (run + 1) rest := if_pos rfl

theorem edgesOf_change (width : Nat) {level p : Level} (h : p ≠ level) (run : Nat) (rest : List Level) :
    edgesOf width level run (p :: rest) = (p, width * run) :: edgesOf width p 1 rest := if_neg h

/-- Periods that end in a change of level end in an edge, and the edges measure all periods before it. -/
theorem edgesOf_concat (width : Nat) {q : Level} (levels : List Level) (level : Level) (run : Nat)
    (hq : q ≠ levels.getLastD level) :
    ∃ (init : List (Level × Nat)) (n : Nat), edgesOf width level run (levels ++ [q]) = init ++ [(q, n)] ∧
      (init.map Prod.snd).sum + n = width * (run + levels.length) := by
  induction levels generalizing level run with
  | nil => exact ⟨[], width * run, edgesOf_change width hq run [], by simp⟩
  | cons p rest ih =>
    rw [List.getLastD_cons] at hq
    by_cases hp : p = level
    · subst hp
      obtain ⟨init, n, hedges, hsum⟩ := ih p (run + 1) hq
      exact ⟨init, n, (edgesOf_same width p run _).trans hedges, by rw [hsum, List.length_cons]; ring⟩
    · obtain ⟨init, n, hedges, hsum⟩ := ih p 1 hq
      refine ⟨(p, width * run) :: init, n, (edgesOf_change width hp run _).trans (congrArg _ hedges), ?_⟩
      simp only [List.map_cons, List.sum_cons, List.length_cons]
      linarith [hsum, show width * (run + (rest.length + 1)) = width * run + width * (1 + rest.length) by ring]

/-- Neighbouring edges go to different levels. -/
theorem edgesOf_alternate (width : Nat) (levels : List Level) (level : Level) (run : Nat) :
    (level :: (edgesOf width level run levels).map Prod.fst).IsChain (· ≠ ·) := by
  induction levels generalizing level run with
  | nil => exact List.isChain_singleton level
  | cons p rest ih =>
    by_cases hp : p = level
    · subst hp; rw [edgesOf_same]; exact ih p (run + 1)
    · rw [edgesOf_change width hp, List.map_cons]
      exact List.isChain_cons_cons.2 ⟨Ne.symm hp, ih p 1⟩

theorem length_dataLevels (d : Byte) (count : Nat) : (dataLevels d count).length = count := by
  induction count with
  | zero => rfl
  | succ count ih => simp [dataLevels, ih]

/-- The edges of a byte: the falling edge, the rising edge of the start pulse, and those of the periods after the framing bit. -/
theorem tx_eq (d : Byte) (width stops gap : Nat) :
    tx d width stops gap =
      (false, gap) :: (true, width) :: edgesOf width true 1 (dataLevels d 8 ++ List.replicate stops false ++ [true]) := by
  rw [tx, levelsAfterStart, List.append_assoc, List.append_assoc, List.singleton_append, ← List.append_assoc,
    edgesOf_change width (by decide), Nat.mul_one]

/-- Settles O55: the stop periods are low and the line goes back to high, so the periods after the start pulse end in an edge. -/
theorem edgeListOfAByte : Obligations.EdgeListOfAByte := by
  intro d width stops gap hstops
  have hlast : true ≠ (dataLevels d 8 ++ List.replicate stops false).getLastD true := by
    obtain ⟨n, rfl⟩ := Nat.exists_eq_succ_of_ne_zero (Nat.ne_of_gt hstops)
    rw [List.replicate_succ', ← List.append_assoc, List.getLastD_concat]
    exact Bool.noConfusion
  obtain ⟨init, n, hedges, hsum⟩ := edgesOf_concat width _ true 1 hlast
  refine ⟨_, tx_eq d width stops gap, ⟨(true, n), by rw [hedges, List.getLast?_concat], rfl⟩, ?_, ?_⟩
  · rw [tx_eq]
    exact List.isChain_cons_cons.2 ⟨Bool.false_ne_true, edgesOf_alternate width _ true 1⟩
  · have hfold : ∀ (es : List (Level × Nat)) (a : Nat), es.foldl (fun n e => n + e.2) a = a + (es.map Prod.snd).sum := by
      intro es
      induction es with
      | nil => simp
      | cons e es ih => intro a; simp [ih, Nat.add_assoc]
    rw [hedges, hfold]
    simp only [List.map_cons, List.map_append, List.sum_cons, List.sum_append, List.map_nil, List.sum_nil, Nat.zero_add, Nat.add_zero,
      hsum, List.length_append, length_dataLevels, List.length_replicate]
    ring

end Sys2Proof.Machine

/-!
Runs of the foreground (spec/30_encoding.md R121): the loop of `DATA.EDGE` in closed form, the copy-out of an accepted frame as one
run, and that `RUN` comes to its end.
-/

namespace Sys2Proof.Machine

/-! ## Appending -/

/-- `APPEND` enters `Copy(0)` exactly when the new window is a frame. -/
theorem State.appendByte_fg (s : State) (v : Byte) :
    (s.appendByte v).fg = if ((s.appendByte v).hm && (s.appendByte v).cm) = true then fgCopy0 else s.fg := by
  have hhm := State.hm_congr (s := (s.setRing (s.ring.write s.cur.val v)).setCur (ringIndex s.cur 1)) (t := s.appendByte v)
    (State.appendByte_ring s v) (State.appendByte_cur s v)
  have hcm := State.cm_congr (s := (s.setRing (s.ring.write s.cur.val v)).setCur (ringIndex s.cur 1)) (t := s.appendByte v)
    (State.appendByte_ring s v) (State.appendByte_cur s v)
  rw [hhm, hcm]
  exact congrArg State.fg (State.appendByte_eq s v)

/-- What an append does to `fg` depends on the ring, the cursor and `fg` only. -/
theorem State.appendByte_fg_congr {s t : State} (hring : t.ring = s.ring) (hcur : t.cur = s.cur) (hfg : t.fg = s.fg) (v : Byte) :
    (t.appendByte v).fg = (s.appendByte v).fg := by
  have hring' : (t.appendByte v).ring = (s.appendByte v).ring := by simp [hring, hcur]
  have hcur' : (t.appendByte v).cur = (s.appendByte v).cur := by simp [hcur]
  rw [State.appendByte_fg, State.appendByte_fg, State.hm_congr hring' hcur', State.cm_congr hring' hcur', hfg]

/-- An append does not look at the accumulator. -/
theorem State.appendByte_setAcc (s : State) (a : Accumulator) (v : Byte) :
    (s.setAcc a).appendByte v = (s.appendByte v).setAcc a := by
  have hfg := State.appendByte_fg_congr (s := s) (t := s.setAcc a) rfl rfl rfl v
  rw [State.appendByte_frame (s.setAcc a) v, State.appendByte_frame s v, hfg]
  simp only [State.appendByte_ring, State.appendByte_cur, State.appendByte_acc]
  rfl

theorem State.setAcc_setAcc (s : State) (a a' : Accumulator) : (s.setAcc a).setAcc a' = s.setAcc a' := rfl

@[simp] theorem State.win_setAcc (s : State) (a : Accumulator) (k : Nat) : (s.setAcc a).win k = s.win k := rfl

/-! ## The loop of `DATA.EDGE` -/

section
variable {b : Bool} {s : State}

theorem State.shiftBit_cnt (b : Bool) (s : State) : (s.shiftBit b).acc.cnt.toNat = min (s.acc.cnt.toNat + 1) 10 := by
  rw [State.shiftBit_acc, countUp_toNat]

/-- One turn of the loop. -/
theorem State.shiftLoop_succ (b : Bool) (n : Nat) (s : State) :
    State.shiftLoop b (n + 1) s = if 9 ≤ s.acc.cnt.toNat then s.shiftBit b else State.shiftLoop b n (s.shiftBit b) := by
  have hstop : (s.shiftBit b).stop = true ↔ 9 ≤ s.acc.cnt.toNat := by
    rw [State.stop, decide_eq_true_eq, State.shiftBit_cnt]; omega
  simp only [State.shiftLoop, hstop]

/-- Up to the ninth bit the loop goes on. -/
theorem State.shiftLoop_add {m : Nat} (h : s.acc.cnt.toNat + m ≤ 9) (n : Nat) :
    State.shiftLoop b (m + n) s = State.shiftLoop b n (State.shiftLoop b m s) := by
  induction m generalizing s with
  | zero => rw [Nat.zero_add]; rfl
  | succ m ih =>
    have hlt : ¬9 ≤ s.acc.cnt.toNat := by omega
    rw [Nat.add_right_comm, State.shiftLoop_succ, if_neg hlt, State.shiftLoop_succ, if_neg hlt,
      ih (by rw [State.shiftBit_cnt]; omega)]

/-- Before the ninth bit the loop writes the accumulator only. -/
theorem State.shiftLoop_below {n : Nat} (h : s.acc.cnt.toNat + n ≤ 8) :
    State.shiftLoop b n s = s.setAcc ⟨(shiftIn · b)^[n] s.acc.data, BitVec.ofNat 4 (s.acc.cnt.toNat + n)⟩ := by
  induction n generalizing s with
  | zero => rw [Nat.add_zero, BitVec.ofNat_toNat, BitVec.setWidth_eq]; rfl
  | succ n ih =>
    have hbit : s.shiftBit b = s.setAcc ⟨shiftIn s.acc.data b, countUp s.acc.cnt⟩ := by
      rw [State.shiftBit_eq, if_neg (by rw [countUp_eq_nine_iff]; omega)]
    have hcnt : (countUp s.acc.cnt).toNat = s.acc.cnt.toNat + 1 := by rw [countUp_toNat]; omega
    rw [State.shiftLoop_succ, if_neg (by omega), hbit, ih (by rw [State.setAcc_acc, hcnt]; omega)]
    simp only [State.setAcc_acc, hcnt, Function.iterate_succ_apply, Nat.add_assoc, Nat.add_comm 1 n]
    rfl

/-- After the ninth bit the loop shifts once, whatever its count. -/
theorem State.shiftLoop_past {n : Nat} (h : 9 ≤ s.acc.cnt.toNat) (hn : 1 ≤ n) :
    State.shiftLoop b n s = s.setAcc ⟨shiftIn s.acc.data b, 10#4⟩ := by
  obtain ⟨n, rfl⟩ := Nat.exists_eq_succ_of_ne_zero (Nat.ne_of_gt hn)
  have hcnt : countUp s.acc.cnt = 10#4 := by
    rw [← BitVec.toNat_inj, countUp_toNat]; simp; omega
  rw [State.shiftLoop_succ, if_pos h, State.shiftBit_eq, hcnt, if_neg (by decide)]

/-- The ninth bit appends the byte. -/
theorem State.shiftLoop_nine {n : Nat} (h : s.acc.cnt.toNat + n = 9) (hn : 1 ≤ n) :
    State.shiftLoop b n s =
      (s.appendByte ((shiftIn · b)^[n] s.acc.data)).setAcc ⟨(shiftIn · b)^[n] s.acc.data, 9#4⟩ := by
  obtain ⟨m, rfl⟩ : ∃ m, n = m + 1 := ⟨n - 1, by omega⟩
  have hcnt : s.acc.cnt.toNat + m = 8 := by omega
  have hbelow := State.shiftLoop_below (b := b) (s := s) (n := m) (by omega)
  rw [State.shiftLoop_add (by omega), hbelow, hcnt, State.shiftLoop_succ, if_neg (by simp),
    State.shiftLoop, State.shiftBit_eq, if_pos ((countUp_eq_nine_iff _).2 rfl), Function.iterate_succ_apply',
    State.appendByte_setAcc, State.appendByte_setAcc]
  rfl

/-- A loop that shifts more than nine bits appends the byte and shifts once more. -/
theorem State.shiftLoop_ten {n : Nat} (h : s.acc.cnt.toNat ≤ 8) (hn : 10 ≤ s.acc.cnt.toNat + n) :
    State.shiftLoop b n s =
      (s.appendByte ((shiftIn · b)^[9 - s.acc.cnt.toNat] s.acc.data)).setAcc
        ⟨shiftIn ((shiftIn · b)^[9 - s.acc.cnt.toNat] s.acc.data) b, 10#4⟩ := by
  obtain ⟨r, rfl⟩ : ∃ r, n = (9 - s.acc.cnt.toNat) + r := ⟨n - (9 - s.acc.cnt.toNat), by omega⟩
  have hnine := State.shiftLoop_nine (b := b) (s := s) (n := 9 - s.acc.cnt.toNat) (by omega) (by omega)
  rw [State.shiftLoop_add (by omega), hnine, State.shiftLoop_past (by simp) (by omega), State.setAcc_acc,
    State.setAcc_setAcc]

end

/-- `t` is `s` after at most one append. -/
def State.appendsAtMostOnce (s t : State) : Prop := t = s ∨ ∃ v, t = s.appendByte v

/-- The loop appends at most once, and else writes the accumulator only. -/
theorem State.shiftLoop_appends (b : Bool) (n : Nat) (s : State) :
    ∃ (t : State) (a : Accumulator), s.appendsAtMostOnce t ∧ State.shiftLoop b n s = t.setAcc a := by
  by_cases hn : n = 0
  · subst hn; exact ⟨s, s.acc, .inl rfl, rfl⟩
  by_cases h9 : 9 ≤ s.acc.cnt.toNat
  · exact ⟨s, _, .inl rfl, State.shiftLoop_past h9 (by omega)⟩
  rcases Nat.lt_trichotomy (s.acc.cnt.toNat + n) 9 with h | h | h
  · exact ⟨s, _, .inl rfl, State.shiftLoop_below (by omega)⟩
  · exact ⟨_, _, .inr ⟨_, rfl⟩, State.shiftLoop_nine h (by omega)⟩
  · exact ⟨_, _, .inr ⟨_, rfl⟩, State.shiftLoop_ten (by omega) (by omega)⟩

/-- A `DATA.EDGE` that changes `fg` has appended a byte that completes a frame. -/
theorem State.dataEdge_fg (s : State) :
    s.dataEdge.fg = s.fg ∨ s.dataEdge.fg = fgCopy0 ∧ ∃ v, (s.appendByte v).hm = true := by
  obtain ⟨t, a, hone, hloop⟩ := State.shiftLoop_appends (bitValue s.obs.level) (periods s.obs.interval s.bw) s.sawObs
  have hfg : s.dataEdge.fg = t.fg := by
    simp only [State.dataEdge, hloop]
    split <;> rfl
  rw [hfg]
  rcases hone with rfl | ⟨v, rfl⟩
  · exact .inl rfl
  · have hhm : (s.sawObs.appendByte v).hm = (s.appendByte v).hm := State.hm_congr (by simp [State.sawObs]) (by simp [State.sawObs])
    rw [State.appendByte_fg]
    split
    · next h => exact .inr ⟨rfl, v, hhm ▸ (Bool.and_eq_true_iff.1 h).1⟩
    · exact .inl rfl

/-! ## Runs of the foreground alone -/

/-- `n` foreground operations that do not end `RUN` lead from one state to another. -/
inductive FgSteps : Nat → State → State → Prop where
  | refl (s : State) : FgSteps 0 s s
  | step {n : Nat} {s u t : State} {i : Instr} (hop : s.foregroundOp = some i) (hgo : endsRun i = false)
      (he : exec i s = .next u) (hrest : FgSteps n u t) : FgSteps (n + 1) s t

/-- The foreground's operation ends `RUN`, and leaves the state as it is. -/
def State.ended (s : State) : Prop := ∃ i, s.foregroundOp = some i ∧ endsRun i = true ∧ exec i s = .next s

theorem State.ended_of_fault {s : State} (h : s.fault = true) : s.ended :=
  ⟨.halt, foregroundOp_of_enables rfl rfl h, rfl, exec_halt.2 ⟨h, rfl⟩⟩

theorem State.ended_of_quiescent {s : State} (hf : s.fault = false) (hfg : s.fg = fgPoll) (hobs : s.obs = s.last) : s.ended :=
  ⟨.pollNop, foregroundOp_pollNop hf hfg hobs, rfl, exec_pollNop.2 ⟨hf, hfg, hobs, rfl⟩⟩

theorem State.quiescent_iff (s : State) : s.quiescent = true ↔ s.fg = fgPoll ∧ s.obs = s.last := by
  simp [State.quiescent]

theorem FgSteps.trans {m n : Nat} {s u t : State} (h : FgSteps m s u) (h' : FgSteps n u t) : FgSteps (m + n) s t := by
  induction h with
  | refl s => rw [Nat.zero_add]; exact h'
  | step hop hgo he _ ih => rw [Nat.add_right_comm]; exact .step hop hgo he (ih h')

/-- The foreground alone, as a stimulus. -/
theorem FgSteps.afterStimulus {n : Nat} {s t : State} (h : FgSteps n s t) (hr : s.running) :
    t.running ∧ afterStimulus (List.replicate n .foreground) s = .next (t.setSchedule []) := by
  induction h with
  | refl s => exact ⟨hr, rfl⟩
  | step hop hgo he _ ih =>
    have hru := running_of_exec hr he
    exact ⟨(ih hru).1, (afterStimulus_cons hr).2 ⟨_, _, hop, he, hru, (ih hru).2⟩⟩

/-- Before each of the steps stands an operation that does not end `RUN`. -/
theorem FgSteps.before {n : Nat} {s t : State} (h : FgSteps n s t) (hr : s.running) {j : Nat} (hj : j < n) :
    ∃ (v : State) (i : Instr), Machine.afterStimulus (List.replicate j .foreground) s = .next v ∧ v.foregroundOp = some i ∧
      endsRun i = false := by
  induction h generalizing j with
  | refl s => exact absurd hj (Nat.not_lt_zero j)
  | step hop hgo he _ ih =>
    cases j with
    | zero => exact ⟨_, _, rfl, hop, hgo⟩
    | succ j =>
      have hru := running_of_exec hr he
      obtain ⟨v, i, hv, hrest⟩ := ih hru (Nat.lt_of_succ_lt_succ hj)
      exact ⟨v, i, (afterStimulus_cons hr).2 ⟨_, _, hop, he, hru, hv⟩, hrest⟩

/-- `RUN` counts the steps and the operation that ends it. -/
theorem FgSteps.runCount {n : Nat} {s t : State} (h : FgSteps n s t) (hend : t.ended) {fuel : Nat} (hfuel : n < fuel) :
    runCount fuel s = n + 1 := by
  induction h generalizing fuel with
  | refl s =>
    obtain ⟨fuel, rfl⟩ := Nat.exists_eq_add_of_lt hfuel
    obtain ⟨i, hop, hi, -⟩ := hend
    simp [Machine.runCount, (decodeTop_foreground s i).2 hop, hi]
  | @step n s u t i hop hgo he _ ih =>
    obtain ⟨fuel, rfl⟩ : ∃ f, fuel = f + 1 := ⟨fuel - 1, by omega⟩
    simp [Machine.runCount, (decodeTop_foreground s i).2 hop, hgo, he, ih hend (Nat.lt_of_succ_lt_succ hfuel)]

theorem FgSteps.run_triggers {n : Nat} {s t : State} (h : FgSteps n s t) (hend : t.ended) (hn : n ≤ 10) :
    Statement.run.triggers s = List.replicate (n + 1) .foreground :=
  congrArg (List.replicate · Trigger.foreground) (h.runCount hend (Nat.lt_succ_of_le hn))

/-- `RUN` takes the steps, and the operation that ends it changes nothing. -/
theorem FgSteps.run {n : Nat} {s t : State} (h : FgSteps n s t) (hend : t.ended) (hn : n ≤ 10) (hr : s.running) :
    Machine.afterStimulus (Statement.run.triggers s) s = .next (t.setSchedule []) := by
  obtain ⟨hrt, hsteps⟩ := h.afterStimulus hr
  have htriggers := h.run_triggers hend hn
  obtain ⟨i, hop, -, he⟩ := hend
  rw [htriggers, List.replicate_succ']
  exact (afterStimulus_append hr).2 ⟨_, hsteps, hrt,
    (afterStimulus_cons (s := t.setSchedule []) hrt).2 ⟨i, _, hop, exec_setSchedule [] he, hrt, rfl⟩⟩

/-! ## The copy-out as a run of the foreground -/

/-- The foreground in phase `Copy(i)` runs `COPY i` (R186). -/
theorem foreground_copy {s : State} (i : Fin 8) (hf : s.fault = false) (hfg : s.fg = BitVec.ofNat 4 (i.val + 1)) :
    ∃ op, s.foregroundOp = some op ∧ endsRun op = false ∧ exec op s = .next (s.copyRow i) := by
  have hcopies := (State.copies_iff s i).2 ⟨hf, hfg⟩
  match i with
  | 0 => exact ⟨.copy0, foregroundOp_of_enables rfl rfl ⟨hf, hfg⟩, rfl, runWhen_of_true hcopies _ _⟩
  | 1 => exact ⟨.copy1, foregroundOp_of_enables rfl rfl ⟨hf, hfg⟩, rfl, runWhen_of_true hcopies _ _⟩
  | 2 => exact ⟨.copy2, foregroundOp_of_enables rfl rfl ⟨hf, hfg⟩, rfl, runWhen_of_true hcopies _ _⟩
  | 3 => exact ⟨.copy3, foregroundOp_of_enables rfl rfl ⟨hf, hfg⟩, rfl, runWhen_of_true hcopies _ _⟩
  | 4 => exact ⟨.copy4, foregroundOp_of_enables rfl rfl ⟨hf, hfg⟩, rfl, runWhen_of_true hcopies _ _⟩
  | 5 => exact ⟨.copy5, foregroundOp_of_enables rfl rfl ⟨hf, hfg⟩, rfl, runWhen_of_true hcopies _ _⟩
  | 6 => exact ⟨.copy6, foregroundOp_of_enables rfl rfl ⟨hf, hfg⟩, rfl, runWhen_of_true hcopies _ _⟩
  | 7 => exact ⟨.copy7, foregroundOp_of_enables rfl rfl ⟨hf, hfg⟩, rfl, runWhen_of_true hcopies _ _⟩

/-- The state after a copy-out that leaves `disp` in the display buffer. -/
@[irreducible] def State.copiedOut (s : State) (disp : Memory) : State :=
  ((s.setDisp disp).setRing (s.ring.zeroCells 11)).setFg fgPoll

@[simp] theorem State.copiedOut_fg (s : State) (disp : Memory) : (s.copiedOut disp).fg = fgPoll := by
  simp [State.copiedOut]
@[simp] theorem State.copiedOut_disp (s : State) (disp : Memory) : (s.copiedOut disp).disp = disp := by
  simp [State.copiedOut]
@[simp] theorem State.copiedOut_line (s : State) (disp : Memory) : (s.copiedOut disp).line = s.line := by
  simp [State.copiedOut]
@[simp] theorem State.copiedOut_tcnt (s : State) (disp : Memory) : (s.copiedOut disp).tcnt = s.tcnt := by
  simp [State.copiedOut]
@[simp] theorem State.copiedOut_obs (s : State) (disp : Memory) : (s.copiedOut disp).obs = s.obs := by
  simp [State.copiedOut]
@[simp] theorem State.copiedOut_last (s : State) (disp : Memory) : (s.copiedOut disp).last = s.last := by
  simp [State.copiedOut]
@[simp] theorem State.copiedOut_st (s : State) (disp : Memory) : (s.copiedOut disp).st = s.st := by
  simp [State.copiedOut]
@[simp] theorem State.copiedOut_bw (s : State) (disp : Memory) : (s.copiedOut disp).bw = s.bw := by
  simp [State.copiedOut]
@[simp] theorem State.copiedOut_acc (s : State) (disp : Memory) : (s.copiedOut disp).acc = s.acc := by
  simp [State.copiedOut]
@[simp] theorem State.copiedOut_cur (s : State) (disp : Memory) : (s.copiedOut disp).cur = s.cur := by
  simp [State.copiedOut]
@[simp] theorem State.copiedOut_fault (s : State) (disp : Memory) : (s.copiedOut disp).fault = s.fault := by
  simp [State.copiedOut]
@[simp] theorem State.copiedOut_row (s : State) (disp : Memory) : (s.copiedOut disp).row = s.row := by
  simp [State.copiedOut]
@[simp] theorem State.copiedOut_col (s : State) (disp : Memory) : (s.copiedOut disp).col = s.col := by
  simp [State.copiedOut]
@[simp] theorem State.copiedOut_rowsel (s : State) (disp : Memory) : (s.copiedOut disp).rowsel = s.rowsel := by
  simp [State.copiedOut]
@[simp] theorem State.copiedOut_cfg (s : State) (disp : Memory) : (s.copiedOut disp).cfg = s.cfg := by
  simp [State.copiedOut]
@[simp] theorem State.copiedOut_schedule (s : State) (disp : Memory) : (s.copiedOut disp).schedule = s.schedule := by
  simp [State.copiedOut]
@[simp] theorem State.copiedOut_subSel (s : State) (disp : Memory) : (s.copiedOut disp).subSel = s.subSel := by
  simp [State.copiedOut]

theorem State.copiedOut_ring (s : State) (disp : Memory) {j : Nat} (hj : j < 11) : (s.copiedOut disp).ring.read j = 0x00#8 := by
  simp only [State.copiedOut, State.setFg_ring, State.setRing_ring, Memory.read_zeroCells, if_pos hj]

theorem State.copyRow_ring (s : State) (i : Fin 8) : (s.copyRow i).ring = s.ring := rfl

/-- Copying a row before the copy-out makes no difference to the other cells. -/
theorem State.copiedOut_copyRow (s : State) (i : Fin 8) (disp : Memory) : (s.copyRow i).copiedOut disp = s.copiedOut disp := by
  simp only [State.copiedOut, State.copyRow_ring]
  rfl

/-- From any phase of a copy the remaining rows are copied and the ring is cleared. -/
theorem fgSteps_copyOut {m : Nat} {s : State} (hf : s.fault = false) (hphase : 1 ≤ s.fg.toNat) (hm : s.fg.toNat + m = 9) :
    ∃ disp : Memory, FgSteps (m + 1) s (s.copiedOut disp) ∧
      ∀ i : Fin 8, disp.read i.val = if s.fg.toNat ≤ i.val + 1 then s.win (2 + i.val) else s.disp.read i.val := by
  induction m generalizing s with
  | zero =>
    have hfg : s.fg = fgClear := BitVec.eq_of_toNat_eq hm
    have hclear : exec .clear s = .next (s.copiedOut s.disp) :=
      exec_clear.2 ⟨hf, hfg, by rw [State.copiedOut]; rfl⟩
    refine ⟨s.disp, .step (foregroundOp_of_enables (i := .clear) rfl rfl ⟨hf, hfg⟩) rfl hclear (.refl _), fun i => ?_⟩
    rw [if_neg (by rw [hfg]; exact Nat.not_le.2 (Nat.succ_lt_succ i.isLt))]
  | succ m ih =>
    obtain ⟨i, hi⟩ : ∃ i : Fin 8, i.val + 1 = s.fg.toNat := ⟨⟨s.fg.toNat - 1, by omega⟩, Nat.sub_add_cancel hphase⟩
    have hfg : s.fg = BitVec.ofNat 4 (i.val + 1) := by rw [hi, BitVec.ofNat_toNat, BitVec.setWidth_eq]
    have hnext : (s.copyRow i).fg.toNat = s.fg.toNat + 1 := by
      show (s.fg + 1#4).toNat = _
      rw [BitVec.toNat_add]; simp; omega
    obtain ⟨op, hop, hgo, he⟩ := foreground_copy i hf hfg
    obtain ⟨disp, hsteps, hdisp⟩ := ih (s := s.copyRow i) hf (by omega) (by omega)
    rw [State.copiedOut_copyRow] at hsteps
    refine ⟨disp, .step hop hgo he hsteps, fun j => ?_⟩
    rw [hdisp, hnext]
    show (if _ then s.win (2 + j.val) else (s.disp.write i.val (s.win (2 + i.val))).read j.val) = _
    rw [Memory.read_write]
    by_cases hji : j.val = i.val
    · rw [hji, if_neg (by omega), if_pos rfl, if_pos (by omega)]
    · rw [if_neg hji]
      by_cases hlt : i.val < j.val
      · rw [if_pos (by omega), if_pos (by omega)]
      · rw [if_neg (by omega), if_neg (by omega)]

/-! ## RUN comes to its end -/

/-- A poll of a changed observation takes it over; it ends in the fault, in `Poll`, or in `Copy(0)` with a header in the window. -/
theorem foreground_poll {s : State} (hf : s.fault = false) (hfg : s.fg = fgPoll) (hch : s.obs ≠ s.last) (hst : s.st ≠ 3#2) :
    ∃ i u, s.foregroundOp = some i ∧ endsRun i = false ∧ exec i s = .next u ∧ u.obs = u.last ∧
      (u.fault = true ∨ u.fault = false ∧ (u.fg = fgPoll ∨ u.fg = fgCopy0 ∧ ∃ v, (s.appendByte v).hm = true)) := by
  have hcases : s.st = stIdle ∨ s.st = stStart ∨ s.st = stData := by
    revert hst; generalize s.st = st; revert st; decide
  have hpoll : s.fault = true ∨ s.fault = false ∧ (s.fg = fgPoll ∨ s.fg = fgCopy0 ∧ ∃ v, (s.appendByte v).hm = true) :=
    .inr ⟨hf, .inl hfg⟩
  rcases hcases with h | h | h
  · cases hl : s.obs.level with
    | false =>
      exact ⟨.idleFall, _, foregroundOp_of_enables rfl rfl ⟨hf, hfg, hch, h, hl⟩, rfl,
        exec_idleFall.2 ⟨hf, hfg, hch, h, hl, rfl⟩, rfl, hpoll⟩
    | true =>
      exact ⟨.idleRise, _, foregroundOp_of_enables rfl rfl ⟨hf, hfg, hch, h, hl⟩, rfl,
        exec_idleRise.2 ⟨hf, hfg, hch, h, hl, rfl⟩, rfl, hpoll⟩
  · cases hl : s.obs.level with
    | false =>
      exact ⟨.startFall, _, foregroundOp_of_enables rfl rfl ⟨hf, hfg, hch, h, hl⟩, rfl,
        exec_startFall.2 ⟨hf, hfg, hch, h, hl, rfl⟩, rfl, hpoll⟩
    | true =>
      exact ⟨.startRise, _, foregroundOp_of_enables rfl rfl ⟨hf, hfg, hch, h, hl⟩, rfl,
        exec_startRise.2 ⟨hf, hfg, hch, h, hl, rfl⟩, rfl, hpoll⟩
  · by_cases hbw : s.bw = 0#16
    · exact ⟨.dataFault, _, foregroundOp_of_enables rfl rfl ⟨hf, hfg, hch, h, hbw⟩, rfl,
        exec_dataFault.2 ⟨hf, hfg, hch, h, hbw, rfl⟩, rfl, .inl rfl⟩
    · refine ⟨.dataEdge s.obs.level, _, foregroundOp_of_enables rfl rfl ⟨hf, hfg, hch, h, rfl, hbw⟩, rfl,
        exec_dataEdge.2 ⟨hf, hfg, hch, h, rfl, hbw, rfl⟩, ?_⟩
      rw [State.dataEdge_obs, State.dataEdge_last, State.dataEdge_fault]
      exact ⟨rfl, .inr ⟨hf, (State.dataEdge_fg s).imp_left (·.trans hfg)⟩⟩

/-- One append to a cleared ring does not bring a header to the front of the window. -/
theorem State.hm_appendByte_of_zero {s : State} (hzero : ∀ j, j < 11 → s.ring.read j = 0x00#8) (v : Byte) : (s.appendByte v).hm = false := by
  have hwin : (s.appendByte v).win 0 = 0x00#8 := by
    rw [State.win_appendByte s v (by decide), if_neg (by decide), State.win_eq, hzero _ (Nat.mod_lt _ (by decide))]
  rw [State.hm, hwin]
  rfl

/-- An accepted frame is copied out and cleared in nine steps. -/
theorem fgSteps_publish {s : State} (hf : s.fault = false) (hfg : s.fg = fgCopy0) :
    ∃ disp : Memory, FgSteps 9 s (s.copiedOut disp) ∧ ∀ i : Fin 8, disp.read i.val = s.win (2 + i.val) := by
  obtain ⟨disp, hsteps, hdisp⟩ := fgSteps_copyOut (m := 8) hf (by rw [hfg]; decide) (by rw [hfg]; rfl)
  exact ⟨disp, hsteps, fun i => by rw [hdisp, if_pos (by rw [hfg]; exact Nat.le_add_left 1 i.val)]⟩

/-- From a legal poll the foreground ends after at most one poll and one copy-out. -/
theorem fgSteps_of_poll {s : State} (hf : s.fault = false) (hfg : s.fg = fgPoll) (hst : s.st ≠ 3#2) :
    ∃ n t, FgSteps n s t ∧ t.ended ∧ (t.quiescent = true ∨ t.fault = true) ∧ n ≤ 10 ∧
      ((∀ v, (s.appendByte v).hm = false) → n ≤ 1) := by
  by_cases hobs : s.obs = s.last
  · exact ⟨0, s, .refl s, State.ended_of_quiescent hf hfg hobs, .inl ((State.quiescent_iff s).2 ⟨hfg, hobs⟩), by omega, fun _ => by omega⟩
  obtain ⟨i, u, hop, hgo, he, hsaw, hend⟩ := foreground_poll hf hfg hobs hst
  have hone : FgSteps 1 s u := .step hop hgo he (.refl u)
  rcases hend with hfault | ⟨hf', hfg' | ⟨hfg', v, hhm⟩⟩
  · exact ⟨1, u, hone, State.ended_of_fault hfault, .inr hfault, by omega, fun _ => le_rfl⟩
  · exact ⟨1, u, hone, State.ended_of_quiescent hf' hfg' hsaw, .inl ((State.quiescent_iff u).2 ⟨hfg', hsaw⟩), by omega, fun _ => le_rfl⟩
  · obtain ⟨disp, hsteps, -⟩ := fgSteps_publish hf' hfg'
    have hquiet : (u.copiedOut disp).fg = fgPoll ∧ (u.copiedOut disp).obs = (u.copiedOut disp).last := by simp [hsaw]
    exact ⟨1 + 9, u.copiedOut disp, hone.trans hsteps, State.ended_of_quiescent (by simpa using hf') hquiet.1 hquiet.2,
      .inl ((State.quiescent_iff _).2 hquiet), by omega, fun hno => by rw [hno v] at hhm; cases hhm⟩

/-- From every legal state the foreground ends after at most ten other operations: a copy-out leaves a ring in which the poll after
it completes no frame. -/
theorem fgSteps_to_end {s : State} (hst : s.st ≠ 3#2) (hlegal : s.fg.toNat ≤ 9) :
    ∃ n t, FgSteps n s t ∧ t.ended ∧ (t.quiescent = true ∨ t.fault = true) ∧ n ≤ 10 := by
  cases hf : s.fault with
  | true => exact ⟨0, s, .refl s, State.ended_of_fault hf, .inr hf, by omega⟩
  | false =>
    by_cases hfg : s.fg = fgPoll
    · obtain ⟨n, t, hsteps, hend, hgood, hn, -⟩ := fgSteps_of_poll hf hfg hst
      exact ⟨n, t, hsteps, hend, hgood, hn⟩
    · have hphase : 1 ≤ s.fg.toNat := Nat.pos_of_ne_zero fun h => hfg (BitVec.eq_of_toNat_eq h)
      obtain ⟨disp, hcopy, -⟩ := fgSteps_copyOut (m := 9 - s.fg.toNat) hf hphase (by omega)
      obtain ⟨n, t, hsteps, hend, hgood, -, hn⟩ := fgSteps_of_poll (s := s.copiedOut disp) (by simpa using hf) (by simp) (by simpa using hst)
      have hle := hn fun v => State.hm_appendByte_of_zero (fun _ hj => s.copiedOut_ring disp hj) v
      exact ⟨_, t, hcopy.trans hsteps, hend, hgood, by omega⟩

/-- Settles O54: `RUN` counts the steps that lead to the end. -/
theorem foregroundReachesQuiescence : Obligations.ForegroundReachesQuiescence := by
  intro s hr hst hlegal
  obtain ⟨k, t, hsteps, hend, hgood, hk⟩ := fgSteps_to_end hst hlegal
  refine ⟨k, t.setSchedule [], hk, fun j hj => ?_, ?_, hsteps.run_triggers hend hk,
    runProgram_cons.2 ⟨_, hsteps.run hend hk hr, rfl⟩, hgood⟩
  · obtain ⟨v, i, hv, hop, hgo⟩ := hsteps.before hr hj
    refine ⟨v, i, hv, (decodeTop_foreground v i).2 hop, ?_, ?_⟩ <;> rintro rfl <;> cases hgo
  · obtain ⟨i, hop, hends, -⟩ := hend
    refine ⟨_, i, (hsteps.afterStimulus hr).2, (decodeTop_foreground _ i).2 hop, ?_⟩
    simpa [endsRun] using hends

end Sys2Proof.Machine

/-!
A byte and a frame on the wire (spec/30_encoding.md R100 to R110, R121): what the block makes of each edge, that every byte is received,
and that a frame is published when its last byte is complete.
-/

namespace Sys2Proof.Machine

/-! ## The shifts depend on four cells -/

/-- The cells that a shift reads and writes are the same. -/
def State.sameShiftCells (s t : State) : Prop := t.acc = s.acc ∧ t.ring = s.ring ∧ t.cur = s.cur ∧ t.fg = s.fg

theorem State.shiftBit_congr {s t : State} (h : s.sameShiftCells t) (b : Bool) : (s.shiftBit b).sameShiftCells (t.shiftBit b) := by
  obtain ⟨hacc, hring, hcur, hfg⟩ := h
  rw [State.shiftBit_eq, State.shiftBit_eq, hacc]
  split
  · rw [State.appendByte_setAcc, State.appendByte_setAcc]
    refine ⟨rfl, ?_, ?_, State.appendByte_fg_congr hring hcur hfg _⟩
    · simp [hring, hcur]
    · simp [hcur]
  · exact ⟨rfl, hring, hcur, hfg⟩

theorem State.shiftLoop_congr {s t : State} (h : s.sameShiftCells t) (b : Bool) (n : Nat) :
    (State.shiftLoop b n s).sameShiftCells (State.shiftLoop b n t) := by
  induction n generalizing s t with
  | zero => exact h
  | succ n ih =>
    rw [State.shiftLoop_succ, State.shiftLoop_succ, h.1]
    split
    · exact State.shiftBit_congr h b
    · exact ih (State.shiftBit_congr h b)

/-- The loop leaves `fg` as it is or enters `Copy(0)`. -/
theorem State.shiftLoop_fg (b : Bool) (n : Nat) (s : State) :
    (State.shiftLoop b n s).fg = s.fg ∨ (State.shiftLoop b n s).fg = fgCopy0 := by
  obtain ⟨t, a, hone, hloop⟩ := State.shiftLoop_appends b n s
  rw [hloop, State.setAcc_fg]
  rcases hone with rfl | ⟨v, rfl⟩
  · exact .inl rfl
  · rw [State.appendByte_fg]
    split
    · exact .inr rfl
    · exact .inl rfl

/-- A run of `run` whole periods is counted as `run`, at any width from 2 ticks on that the timer can measure (R158). -/
theorem periods_of_run {width run : Nat} (hw : 2 ≤ width) (hrun : 1 ≤ run) (hlt : width * run < 2 ^ Config.timerWidth) :
    periods (BitVec.ofNat Config.timerWidth (width * run)) (BitVec.ofNat Config.timerWidth width) = run := by
  have hle : width ≤ width * run := Nat.le_mul_of_pos_right width hrun
  have hsub : (BitVec.ofNat Config.timerWidth (width * run) - BitVec.ofNat Config.timerWidth width >>> 1).toNat =
      width * run - width / 2 := by
    rw [BitVec.toNat_sub_of_le]
    · rw [BitVec.toNat_ushiftRight, BitVec.toNat_ofNat, BitVec.toNat_ofNat, Nat.mod_eq_of_lt hlt, Nat.mod_eq_of_lt (by omega)]
      rfl
    · rw [BitVec.le_def, BitVec.toNat_ushiftRight, BitVec.toNat_ofNat, BitVec.toNat_ofNat, Nat.mod_eq_of_lt hlt,
        Nat.mod_eq_of_lt (by omega), Nat.shiftRight_one]
      omega
  obtain ⟨k, rfl⟩ : ∃ k, run = k + 1 := ⟨run - 1, by omega⟩
  rw [periods, hsub, BitVec.toNat_ofNat, Nat.mod_eq_of_lt (by omega),
    show width * (k + 1) - width / 2 = (width - width / 2) + width * k by rw [Nat.mul_succ]; omega,
    Nat.add_mul_div_left _ _ (by omega), Nat.div_eq_of_lt (by omega), Nat.zero_add]

/-! ## One edge and its processing -/

/-- What the foreground makes of a state after a poll: an accepted frame is copied out, and else nothing happens. -/
def State.publishes (u t : State) : Prop :=
  u.fg = fgPoll ∧ t = u.setSchedule [] ∨
    ∃ disp : Memory, u.fg = fgCopy0 ∧ t = (u.copiedOut disp).setSchedule [] ∧ ∀ i : Fin 8, disp.read i.val = u.win (2 + i.val)

/-- A copy-out writes `disp`, `ring` and `fg` only. -/
theorem State.publishes.frame {u t : State} (h : u.publishes t) :
    t = (((u.setDisp t.disp).setRing t.ring).setFg fgPoll).setSchedule [] := by
  rcases h with ⟨hfg, rfl⟩ | ⟨disp, -, rfl, -⟩
  · rw [← hfg]; rfl
  · simp only [State.copiedOut]; rfl

/-- `EP L, n`: the edge, the operation of the poll that sees it, and the copy-out of a frame it may have completed. -/
theorem runProgram_edgeAndProcess {s u : State} {l : Level} {n : Nat} {i : Instr} (hr : s.running) (hl : l ≠ s.line)
    (hen : (s.afterEdge l n).enables i) (htop : i.isTop = true) (hag : i.agent = .foreground) (hgo : endsRun i = false)
    (he : exec i (s.afterEdge l n) = .next u) (hf : u.fault = false) (hobs : u.obs = u.last)
    (hfg : u.fg = fgPoll ∨ u.fg = fgCopy0) :
    ∃ t, u.publishes t ∧ runProgram (edgeAndProcess l n) s = .next t := by
  have hone : FgSteps 1 (s.afterEdge l n) u := .step (foregroundOp_of_enables htop hag hen) hgo he (.refl u)
  have hprogram : ∀ {k : Nat} {v : State}, FgSteps k (s.afterEdge l n) v → v.ended → k ≤ 10 →
      runProgram (edgeAndProcess l n) s = .next (v.setSchedule []) := fun hsteps hend hk =>
    runProgram_cons.2 ⟨_, afterStimulus_edge hr hl n, runProgram_cons.2 ⟨_, hsteps.run hend hk hr, rfl⟩⟩
  rcases hfg with hfg | hfg
  · exact ⟨_, .inl ⟨hfg, rfl⟩, hprogram hone (State.ended_of_quiescent hf hfg hobs) (by omega)⟩
  · obtain ⟨disp, hsteps, hdisp⟩ := fgSteps_publish hf hfg
    exact ⟨_, .inr ⟨disp, hfg, rfl, hdisp⟩,
      hprogram (hone.trans hsteps) (State.ended_of_quiescent (by simpa using hf) (by simp) (by simpa using hobs)) (by omega)⟩

/-- The block between two edges: the foreground polls in decoder state `st` and has seen the level of the line. -/
structure State.Listens (s : State) (st : BitVec 2) (level : Level) : Prop where
  running : s.running
  fault : s.fault = false
  fg : s.fg = fgPoll
  st : s.st = st
  obs : s.obs = s.last
  line : s.line = level
  level : s.obs.level = level

/-- After the copy-out the block waits for the next edge, in the decoder state that the poll left. -/
theorem State.publishes.listens {u t : State} {l : Level} (h : u.publishes t) (hr : u.running) (hf : u.fault = false)
    (hobs : u.obs = u.last) (hline : u.line = l) (hlevel : u.obs.level = l) : t.Listens u.st l := by
  rw [h.frame]
  exact ⟨hr, hf, rfl, rfl, hobs, hline, hlevel⟩

/-- What a copy-out leaves of the cells it does not write. -/
theorem State.publishes.kept {u t : State} (h : u.publishes t) :
    t.tcnt = u.tcnt ∧ t.bw = u.bw ∧ t.acc = u.acc ∧ t.cur = u.cur ∧ u.sameScanner t := by
  rw [h.frame]
  exact ⟨rfl, rfl, rfl, rfl, rfl, rfl, rfl⟩

/-- What a copy-out leaves of the ring and makes of the display. -/
theorem State.publishes.published {u t : State} (h : u.publishes t) :
    (u.fg = fgPoll → t.ring = u.ring ∧ t.disp = u.disp) ∧
      (u.fg ≠ fgPoll → (∀ j, j < 11 → t.ring.read j = 0x00#8) ∧ ∀ i : Fin 8, t.disp.read i.val = u.win (2 + i.val)) := by
  rcases h with ⟨hpoll, rfl⟩ | ⟨disp, hcopy, rfl, hdisp⟩
  · exact ⟨fun _ => ⟨rfl, rfl⟩, fun hne => absurd hpoll hne⟩
  · refine ⟨fun hpoll => absurd (hpoll.symm.trans hcopy) (by decide), fun _ => ⟨fun j hj => u.copiedOut_ring disp hj, fun i => ?_⟩⟩
    rw [State.setSchedule_disp, State.copiedOut_disp, hdisp]

/-- A poll sees every edge to the other level, whatever its interval. -/
theorem State.Listens.afterEdge_changed {s : State} {st : BitVec 2} {level l : Level} (h : s.Listens st level) (hl : l ≠ level)
    (n : Nat) : (s.afterEdge l n).obs ≠ (s.afterEdge l n).last := by
  intro heq
  have hlevel : l = s.last.level := congrArg Observation.level heq
  rw [← h.obs, h.level] at hlevel
  exact hl hlevel

/-- `t` has the cells of FrameSync and DisplayScanner as `s` has them. -/
def State.sameFrame (s t : State) : Prop :=
  t.ring = s.ring ∧ t.cur = s.cur ∧ t.fg = s.fg ∧ t.disp = s.disp ∧ s.sameScanner t

/-- The falling edge of a start pulse, after any gap. -/
theorem receive_fall {s : State} (h : s.Listens stIdle true) (gap : Nat) :
    ∃ t, runProgram (edgeAndProcess false gap) s = .next t ∧ t.Listens stStart false ∧ t.tcnt = 0#16 ∧ s.sameFrame t := by
  have hch := h.afterEdge_changed Bool.false_ne_true gap
  obtain ⟨t, ht | ⟨disp, hcopy, -⟩, hrun⟩ := runProgram_edgeAndProcess (l := false) (n := gap) h.running (by rw [h.line]; decide)
    (i := .idleFall) ⟨h.fault, h.fg, hch, h.st, rfl⟩ rfl rfl rfl (exec_idleFall.2 ⟨h.fault, h.fg, hch, h.st, rfl, rfl⟩)
    h.fault rfl (.inl h.fg)
  · obtain ⟨-, rfl⟩ := ht
    exact ⟨_, hrun, ⟨h.running, h.fault, h.fg, rfl, rfl, rfl, rfl⟩, rfl, rfl, rfl, rfl, rfl, rfl, rfl, rfl⟩
  · exact absurd (h.fg.symm.trans hcopy) (by decide)

/-- The rising edge that ends the start pulse: its length becomes the bit width. -/
theorem receive_rise {s : State} (h : s.Listens stStart false) (hzero : s.tcnt = 0#16) (width : Nat) :
    ∃ t, runProgram (edgeAndProcess true width) s = .next t ∧ t.Listens stData true ∧ t.tcnt = 0#16 ∧
      t.bw = BitVec.ofNat Config.timerWidth width ∧ t.acc = ⟨0x00#8, 0#4⟩ ∧ s.sameFrame t := by
  have hch := h.afterEdge_changed (Ne.symm Bool.false_ne_true) width
  have hbw : (s.afterEdge true width).obs.interval = BitVec.ofNat Config.timerWidth width := by
    simp [State.afterEdge, hzero]
  obtain ⟨t, ht | ⟨disp, hcopy, -⟩, hrun⟩ := runProgram_edgeAndProcess (l := true) (n := width) h.running (by rw [h.line]; decide)
    (i := .startRise) ⟨h.fault, h.fg, hch, h.st, rfl⟩ rfl rfl rfl (exec_startRise.2 ⟨h.fault, h.fg, hch, h.st, rfl, rfl⟩)
    h.fault rfl (.inl h.fg)
  · obtain ⟨-, rfl⟩ := ht
    exact ⟨_, hrun, ⟨h.running, h.fault, h.fg, rfl, rfl, rfl, rfl⟩, rfl, hbw, rfl, rfl, rfl, rfl, rfl, rfl, rfl, rfl⟩
  · exact absurd (h.fg.symm.trans hcopy) (by decide)

/-- The block in the data periods of a byte: an edge was just seen, and the bit width is known. -/
structure State.Receives (s : State) (width : Nat) (level : Level) : Prop extends s.Listens stData level where
  tcnt : s.tcnt = 0#16
  bw : s.bw = BitVec.ofNat Config.timerWidth width

/-- The edge that ends `run` whole periods shifts `run` bits of its value in (R157). -/
theorem dataEdge_afterEdge {s : State} {width run : Nat} {level : Level} (h : s.Receives width level) (l : Level) (hw : 2 ≤ width)
    (hrun : 1 ≤ run) (hlt : width * run < 2 ^ Config.timerWidth) :
    (State.shiftLoop l run s).sameShiftCells (s.afterEdge l (width * run)).dataEdge := by
  have hiv : (s.afterEdge l (width * run)).obs.interval = BitVec.ofNat Config.timerWidth (width * run) := by
    simp [State.afterEdge, h.tcnt]
  have hcount : periods (s.afterEdge l (width * run)).obs.interval (s.afterEdge l (width * run)).bw = run := by
    rw [hiv, show (s.afterEdge l (width * run)).bw = s.bw from rfl, h.bw, periods_of_run hw hrun hlt]
  obtain ⟨hacc, hring, hcur, hfg⟩ :=
    State.shiftLoop_congr (s := s) (t := (s.afterEdge l (width * run)).sawObs) ⟨rfl, rfl, rfl, rfl⟩ l run
  simp only [State.dataEdge, hcount]
  split <;> exact ⟨hacc, hring, hcur, hfg⟩

/-- What the processed edge leaves of the other cells. -/
theorem dataEdge_afterEdge_kept (s : State) (l : Level) (n : Nat) :
    (s.afterEdge l n).dataEdge.obs = (s.afterEdge l n).dataEdge.last ∧ (s.afterEdge l n).dataEdge.line = l ∧
      (s.afterEdge l n).dataEdge.obs.level = l ∧ (s.afterEdge l n).dataEdge.tcnt = 0#16 ∧
      (s.afterEdge l n).dataEdge.bw = s.bw ∧ (s.afterEdge l n).dataEdge.disp = s.disp ∧
      s.sameScanner (s.afterEdge l n).dataEdge :=
  ⟨by simp, State.dataEdge_line _, congrArg Observation.level (State.dataEdge_obs _), State.dataEdge_tcnt _, State.dataEdge_bw _,
    State.dataEdge_disp _, State.dataEdge_row _, State.dataEdge_col _, State.dataEdge_rowsel _⟩

/-- The bit width of a byte that is being received is not 0. -/
theorem State.Receives.bw_ne_zero {s : State} {width : Nat} {level : Level} (h : s.Receives width level) (hw : 2 ≤ width)
    (hlt : width < 2 ^ Config.timerWidth) : s.bw ≠ 0#16 := by
  rw [h.bw, ← BitVec.toNat_ne_iff_ne, BitVec.toNat_ofNat, Nat.mod_eq_of_lt hlt]
  exact Nat.ne_of_gt (Nat.lt_of_lt_of_le Nat.zero_lt_two hw)

/-- An edge after `run` whole periods in `Data`: their bits are shifted in, and a frame that they complete is copied out. -/
theorem receive_edge {s : State} {width run : Nat} {level l : Level} (h : s.Receives width level) (hl : l ≠ level) (hw : 2 ≤ width)
    (hrun : 1 ≤ run) (hlt : width * run < 2 ^ Config.timerWidth) :
    ∃ t, runProgram (edgeAndProcess l (width * run)) s = .next t ∧
      t.Listens (if 9 < t.acc.cnt.toNat ∧ l = true then stIdle else stData) l ∧ t.tcnt = 0#16 ∧ t.bw = s.bw ∧
      t.acc = (State.shiftLoop l run s).acc ∧ t.cur = (State.shiftLoop l run s).cur ∧ s.sameScanner t ∧
      ((State.shiftLoop l run s).fg = fgPoll → t.ring = (State.shiftLoop l run s).ring ∧ t.disp = s.disp) ∧
      ((State.shiftLoop l run s).fg ≠ fgPoll →
        (∀ j, j < 11 → t.ring.read j = 0x00#8) ∧ ∀ i : Fin 8, t.disp.read i.val = (State.shiftLoop l run s).win (2 + i.val)) := by
  have hch := h.afterEdge_changed hl (width * run)
  have hbw := h.bw_ne_zero hw (Nat.lt_of_le_of_lt (Nat.le_mul_of_pos_right width hrun) hlt)
  obtain ⟨hacc, hring, hcur, hfg⟩ := dataEdge_afterEdge h l hw hrun hlt
  have hphase := (State.shiftLoop_fg l run s).imp_left (·.trans h.fg)
  have hen : (s.afterEdge l (width * run)).enables (.dataEdge l) := ⟨h.fault, h.fg, hch, h.st, rfl, hbw⟩
  have he : exec (.dataEdge l) (s.afterEdge l (width * run)) = .next (s.afterEdge l (width * run)).dataEdge :=
    exec_dataEdge.2 ⟨h.fault, h.fg, hch, h.st, rfl, hbw, rfl⟩
  have hr := running_of_exec (s := s.afterEdge l (width * run)) h.running he
  have hf := (State.dataEdge_fault (s.afterEdge l (width * run))).trans h.fault
  obtain ⟨hobs, hline, hlevel, htcnt, hbw', hdisp, hscan⟩ := dataEdge_afterEdge_kept s l (width * run)
  have hst := State.dataEdge_st (s.afterEdge l (width * run))
  rw [show (s.afterEdge l (width * run)).obs.level = l from rfl, show (s.afterEdge l (width * run)).st = s.st from rfl, h.st] at hst
  generalize (s.afterEdge l (width * run)).dataEdge = u at *
  obtain ⟨t, hpub, hprogram⟩ := runProgram_edgeAndProcess h.running (by rw [h.line]; exact hl) hen rfl rfl rfl he hf hobs
    (by rwa [hfg])
  obtain ⟨htcnt', hbw'', hacc', hcur', hrow, hcol, hrowsel⟩ := hpub.kept
  obtain ⟨hpoll, hcopy⟩ := hpub.published
  have hlistens := hpub.listens hr hf hobs hline hlevel
  rw [hst, ← hacc'] at hlistens
  rw [hfg, hring, hdisp] at hpoll
  rw [hfg] at hcopy
  refine ⟨t, hprogram, hlistens, htcnt'.trans htcnt, hbw''.trans hbw', hacc'.trans hacc, hcur'.trans hcur,
    ⟨hrow.trans hscan.1, hcol.trans hscan.2.1, hrowsel.trans hscan.2.2⟩, hpoll, fun hne => ⟨(hcopy hne).1, fun i => ?_⟩⟩
  rw [(hcopy hne).2, State.win_congr hring hcur]

/-! ## The data periods of a byte -/

/-- `t` is `s` after the byte `v` was received: it is appended, and if it completes a frame, the frame is published. -/
def State.heard (s : State) (v : Byte) (t : State) : Prop :=
  t.cur = ringIndex s.cur 1 ∧ s.sameScanner t ∧
    ((s.appendByte v).fg = fgPoll → t.ring = s.ring.write s.cur.val v ∧ t.disp = s.disp) ∧
    ((s.appendByte v).fg ≠ fgPoll →
      (∀ j, j < 11 → t.ring.read j = 0x00#8) ∧ ∀ i : Fin 8, t.disp.read i.val = (s.appendByte v).win (2 + i.val))

theorem State.heard_of_sameFrame {s u t : State} {v : Byte} (h : s.sameFrame u) (h' : u.heard v t) : s.heard v t := by
  obtain ⟨hring, hcur, hfg, hdisp, hrow, hcol, hrowsel⟩ := h
  obtain ⟨hcur', ⟨hrow', hcol', hrowsel'⟩, hpoll, hcopy⟩ := h'
  have hwin : ∀ k, (u.appendByte v).win k = (s.appendByte v).win k :=
    State.win_congr (by simp [hring, hcur]) (by simp [hcur])
  rw [State.appendByte_fg_congr hring hcur hfg, hring, hcur, hdisp] at hpoll
  rw [State.appendByte_fg_congr hring hcur hfg] at hcopy
  simp only [hwin] at hcopy
  exact ⟨hcur'.trans (by rw [hcur]), ⟨hrow'.trans hrow, hcol'.trans hcol, hrowsel'.trans hrowsel⟩, hpoll, hcopy⟩

theorem State.heard.sameFrame {s u t : State} {v : Byte} (h : s.heard v u) (h' : u.sameFrame t) : s.heard v t := by
  obtain ⟨hring, hcur, -, hdisp, hrow, hcol, hrowsel⟩ := h'
  obtain ⟨hcur', ⟨hrow', hcol', hrowsel'⟩, hpoll, hcopy⟩ := h
  rw [← hring, ← hdisp] at hpoll hcopy
  exact ⟨hcur.trans hcur', ⟨hrow.trans hrow', hcol.trans hcol', hrowsel.trans hrowsel'⟩, hpoll, hcopy⟩

section
variable {s : State} {width run : Nat} {level : Level}

/-- An edge before the ninth bit. -/
theorem receive_edge_below (h : s.Receives width level) {l : Level} (hl : l ≠ level) (hw : 2 ≤ width) (hrun : 1 ≤ run)
    (hlt : width * run < 2 ^ Config.timerWidth) (hcnt : s.acc.cnt.toNat + run ≤ 8) :
    ∃ t, runProgram (edgeAndProcess l (width * run)) s = .next t ∧ t.Receives width l ∧
      t.acc = ⟨(shiftIn · l)^[run] s.acc.data, BitVec.ofNat 4 (s.acc.cnt.toNat + run)⟩ ∧ s.sameFrame t := by
  obtain ⟨t, hprogram, hlistens, htcnt, hbw, hacc, hcur, hscan, hpoll, -⟩ := receive_edge h hl hw hrun hlt
  rw [State.shiftLoop_below hcnt] at hacc hcur hpoll
  obtain ⟨hring, hdisp⟩ := hpoll h.fg
  have hnine : ¬(9 < t.acc.cnt.toNat ∧ l = true) := by
    rw [hacc]; simp; omega
  rw [if_neg hnine] at hlistens
  exact ⟨t, hprogram, { hlistens with tcnt := htcnt, bw := hbw.trans h.bw }, hacc, hring, hcur, hlistens.fg.trans h.fg.symm, hdisp,
    hscan⟩

/-- The falling edge that ends the ninth bit. -/
theorem receive_edge_nine (h : s.Receives width true) (hw : 2 ≤ width) (hrun : 1 ≤ run)
    (hlt : width * run < 2 ^ Config.timerWidth) (hcnt : s.acc.cnt.toNat + run = 9) :
    ∃ t, runProgram (edgeAndProcess false (width * run)) s = .next t ∧ t.Receives width false ∧
      t.acc = ⟨(shiftIn · false)^[run] s.acc.data, 9#4⟩ ∧ s.heard ((shiftIn · false)^[run] s.acc.data) t := by
  obtain ⟨t, hprogram, hlistens, htcnt, hbw, hacc, hcur, hscan, hpoll, hcopy⟩ := receive_edge h Bool.false_ne_true hw hrun hlt
  rw [State.shiftLoop_nine hcnt hrun] at hacc hcur hpoll hcopy
  rw [if_neg (by simp)] at hlistens
  exact ⟨t, hprogram, { hlistens with tcnt := htcnt, bw := hbw.trans h.bw }, hacc, hcur.trans (by simp), hscan,
    by simpa using hpoll, by simpa only [State.setAcc_fg, State.win_setAcc] using hcopy⟩

/-- The rising edge that ends the ninth bit and the stop periods. -/
theorem receive_edge_ten (h : s.Receives width false) (hw : 2 ≤ width) (hrun : 1 ≤ run)
    (hlt : width * run < 2 ^ Config.timerWidth) (hcnt : s.acc.cnt.toNat ≤ 8) (hten : 10 ≤ s.acc.cnt.toNat + run) :
    ∃ t, runProgram (edgeAndProcess true (width * run)) s = .next t ∧ t.Listens stIdle true ∧
      t.bw = BitVec.ofNat Config.timerWidth width ∧
      t.acc = ⟨shiftIn ((shiftIn · true)^[9 - s.acc.cnt.toNat] s.acc.data) true, 10#4⟩ ∧
      s.heard ((shiftIn · true)^[9 - s.acc.cnt.toNat] s.acc.data) t := by
  obtain ⟨t, hprogram, hlistens, -, hbw, hacc, hcur, hscan, hpoll, hcopy⟩ := receive_edge h (Ne.symm Bool.false_ne_true) hw hrun hlt
  rw [State.shiftLoop_ten hcnt hten] at hacc hcur hpoll hcopy
  rw [if_pos ⟨by rw [hacc]; simp, rfl⟩] at hlistens
  exact ⟨t, hprogram, hlistens, hbw.trans h.bw, hacc, hcur.trans (by simp), hscan, by simpa using hpoll, by simpa only [State.setAcc_fg, State.win_setAcc] using hcopy⟩

/-- The rising edge that ends the stop periods after a byte whose last bit was 0. -/
theorem receive_edge_past (h : s.Receives width false) (hw : 2 ≤ width) (hrun : 1 ≤ run)
    (hlt : width * run < 2 ^ Config.timerWidth) (hcnt : s.acc.cnt = 9#4) :
    ∃ t, runProgram (edgeAndProcess true (width * run)) s = .next t ∧ t.Listens stIdle true ∧
      t.bw = BitVec.ofNat Config.timerWidth width ∧ t.acc = ⟨shiftIn s.acc.data true, 10#4⟩ ∧ s.sameFrame t := by
  obtain ⟨t, hprogram, hlistens, -, hbw, hacc, hcur, hscan, hpoll, -⟩ := receive_edge h (Ne.symm Bool.false_ne_true) hw hrun hlt
  rw [State.shiftLoop_past (by rw [hcnt]; rfl) hrun] at hacc hcur hpoll
  obtain ⟨hring, hdisp⟩ := hpoll h.fg
  rw [if_pos ⟨by rw [hacc]; simp, rfl⟩] at hlistens
  exact ⟨t, hprogram, hlistens, hbw.trans h.bw, hacc, hring, hcur, hlistens.fg.trans h.fg.symm, hdisp, hscan⟩

end

/-- A low run goes on through the stop periods. -/
theorem edgesOf_replicate (width : Nat) (level : Level) (run n : Nat) (rest : List Level) :
    edgesOf width level run (List.replicate n level ++ rest) = edgesOf width level (run + n) rest := by
  induction n generalizing run with
  | zero => rfl
  | succ n ih => rw [List.replicate_succ, List.cons_append, edgesOf_same, ih, Nat.add_right_comm]; rfl

theorem runProgram_processEdges_cons {e : Level × Nat} {rest : List (Level × Nat)} {s t u : State}
    (h : runProgram (edgeAndProcess e.1 e.2) s = .next t) (h' : runProgram (processEdges rest) t = .next u) :
    runProgram (processEdges (e :: rest)) s = .next u := runProgram_append.2 ⟨t, h, h'⟩

/-- The data periods and the stop periods, from `run` pending periods of one level on: the bits that make up the first nine are the
complements of the levels (R104). -/
theorem receive_levels {width stops : Nat} (hw : 2 ≤ width) (hstops : 1 ≤ stops) (hlt : width * (8 + stops) < 2 ^ Config.timerWidth)
    (levels : List Level) {level : Level} {run : Nat} {s : State} (h : s.Receives width level) (hrun : 1 ≤ run)
    (hnine : s.acc.cnt.toNat + run + levels.length = 9) (hlow : level = false → 1 ≤ s.acc.cnt.toNat) :
    ∃ t, runProgram (processEdges (edgesOf width level run (levels ++ (List.replicate stops false ++ [true])))) s = .next t ∧
      t.Listens stIdle true ∧ t.bw = BitVec.ofNat Config.timerWidth width ∧
      t.acc = ⟨shiftIn (levels.foldl (fun a p => shiftIn a !p) ((shiftIn · !level)^[run] s.acc.data)) true, 10#4⟩ ∧
      s.heard (levels.foldl (fun a p => shiftIn a !p) ((shiftIn · !level)^[run] s.acc.data)) t := by
  have hfit : ∀ n, n ≤ 8 + stops → width * n < 2 ^ Config.timerWidth := fun n hn =>
    Nat.lt_of_le_of_lt (Nat.mul_le_mul_left width hn) hlt
  induction levels generalizing level run s with
  | nil =>
    simp only [List.length_nil, Nat.add_zero] at hnine
    cases level with
    | false =>
      have hcnt := hlow rfl
      obtain ⟨t, hprogram, hlistens, hbw, hacc, hheard⟩ :=
        receive_edge_ten (run := run + stops) h hw (by omega) (hfit _ (by omega)) (by omega) (by omega)
      rw [show 9 - s.acc.cnt.toNat = run by omega] at hacc hheard
      refine ⟨t, ?_, hlistens, hbw, hacc, hheard⟩
      rw [List.nil_append, edgesOf_replicate, edgesOf_change width (by decide)]
      exact runProgram_processEdges_cons hprogram rfl
    | true =>
      obtain ⟨u, hprogram, hreceives, hacc, hheard⟩ := receive_edge_nine h hw hrun (hfit _ (by omega)) hnine
      obtain ⟨t, hprogram', hlistens, hbw, hacc', hframe⟩ :=
        receive_edge_past (run := stops) hreceives hw hstops (hfit _ (by omega)) (by rw [hacc])
      rw [hacc] at hacc'
      refine ⟨t, ?_, hlistens, hbw, hacc', hheard.sameFrame hframe⟩
      obtain ⟨m, rfl⟩ : ∃ m, stops = m + 1 := ⟨stops - 1, by omega⟩
      rw [List.nil_append, List.replicate_succ, List.cons_append, edgesOf_change width (by decide), edgesOf_replicate, Nat.add_comm 1 m,
        edgesOf_change width (by decide)]
      exact runProgram_processEdges_cons hprogram (runProgram_processEdges_cons hprogram' rfl)
  | cons p rest ih =>
    simp only [List.length_cons] at hnine
    by_cases hp : p = level
    · subst hp
      obtain ⟨t, hprogram, hrest⟩ := ih h (run := run + 1) (by omega) (by omega) hlow
      rw [Function.iterate_succ_apply'] at hrest
      refine ⟨t, ?_, hrest⟩
      rw [List.cons_append, edgesOf_same]
      exact hprogram
    · have hnot : (!level) = p := (Bool.eq_not.2 hp).symm
      obtain ⟨u, hprogram, hreceives, hacc, hframe⟩ := receive_edge_below h hp hw hrun (hfit _ (by omega)) (by omega)
      have hcnt : u.acc.cnt.toNat = s.acc.cnt.toNat + run := by
        rw [hacc, BitVec.toNat_ofNat]; omega
      obtain ⟨t, hprogram', hlistens, hbw, hacc', hheard⟩ := ih hreceives (run := 1) le_rfl (by omega) (by omega)
      rw [hacc] at hacc' hheard
      rw [List.foldl_cons, hnot]
      refine ⟨t, ?_, hlistens, hbw, hacc', State.heard_of_sameFrame hframe hheard⟩
      rw [List.cons_append, edgesOf_change width hp]
      exact runProgram_processEdges_cons hprogram hprogram'

/-! ## A byte -/

/-- Shifting in the next lower bit of a byte. -/
theorem shiftIn_ushiftRight (d : Byte) (k : Nat) : shiftIn (d >>> (k + 1)) (d.getLsbD k) = d >>> k := by
  refine BitVec.eq_of_getLsbD_eq fun j hj => ?_
  have hbit : (if d.getLsbD k then 1#8 else 0#8).getLsbD j = (d.getLsbD k && decide (j = 0)) := by
    cases d.getLsbD k <;> simp [BitVec.getLsbD_one]
  rw [shiftIn, BitVec.getLsbD_or, hbit, BitVec.getLsbD_shiftLeft, BitVec.getLsbD_ushiftRight, BitVec.getLsbD_ushiftRight]
  cases j with
  | zero => simp
  | succ j => simp [hj, Nat.add_comm, Nat.add_left_comm]

/-- The bits of the data periods, most significant first, make up the byte (R101). -/
theorem foldl_dataLevels (d : Byte) : (dataLevels d 8).foldl (fun a p => shiftIn a !p) 0x00#8 = d := by
  have key : ∀ count, count ≤ 8 → (dataLevels d count).foldl (fun a p => shiftIn a !p) 0x00#8 = d >>> (8 - count) := by
    intro count hcount
    induction count with
    | zero => exact (BitVec.ushiftRight_eq_zero (x := d) le_rfl).symm
    | succ count ih =>
      rw [dataLevels, List.foldl_append, ih (by omega), List.foldl_cons, List.foldl_nil, Bool.not_not,
        show 8 - count = (7 - count) + 1 by omega, shiftIn_ushiftRight]
      congr 1; omega
  exact (key 8 le_rfl).trans (by simp)

/-- What is asked of the bit width, the stop periods and the timer (R102, R105). -/
structure Transmittable (width stops : Nat) : Prop where
  two_le_width : 2 ≤ width
  one_le_stops : 1 ≤ stops
  fits : (8 + stops) * width < 2 ^ Config.timerWidth

/-- Every byte is received. -/
theorem receive_byte {width stops : Nat} (hw : Transmittable width stops) {s : State} (h : s.Listens stIdle true) (d : Byte)
    (gap : Nat) :
    ∃ t, runProgram (byteProgram d width stops gap) s = .next t ∧ t.Listens stIdle true ∧
      t.bw = BitVec.ofNat Config.timerWidth width ∧ t.acc = ⟨shiftIn d true, 10#4⟩ ∧ s.heard d t := by
  obtain ⟨u, hfall, hstart, hzero, hframe⟩ := receive_fall h gap
  obtain ⟨v, hrise, hlistens, hzero', hbw, hacc, hframe'⟩ := receive_rise hstart hzero width
  have hv : v.Receives width true := { hlistens with tcnt := hzero', bw := hbw }
  obtain ⟨t, hlevels, hidle, hbw', hacc', hheard⟩ :=
    receive_levels hw.two_le_width hw.one_le_stops (by rw [Nat.mul_comm]; exact hw.fits) (dataLevels d 8) (run := 1) hv le_rfl
      (by rw [hacc, length_dataLevels]; rfl) (fun h => by cases h)
  have hframing : (shiftIn · !true)^[1] v.acc.data = 0x00#8 := by rw [hacc]; rfl
  rw [hframing, foldl_dataLevels] at hacc' hheard
  refine ⟨t, ?_, hidle, hbw', hacc', State.heard_of_sameFrame hframe (State.heard_of_sameFrame hframe' hheard)⟩
  rw [byteProgram, tx_eq, List.append_assoc]
  exact runProgram_processEdges_cons hfall (runProgram_processEdges_cons hrise hlevels)

/-- Settles O57: the start pulse, then the data and stop periods. -/
theorem byteRoundTrip : Obligations.ByteRoundTrip := by
  intro s d width stops gap hr hf hfg hst hobs hline hlevel hwidth hstops hfits
  obtain ⟨t, hprogram, hidle, hbw, hacc, hcur, hscan, hpoll, hcopy⟩ :=
    receive_byte ⟨hwidth, hstops, hfits⟩ ⟨hr, hf, hfg, hst, hobs, hline, hlevel⟩ d gap
  exact ⟨t, hprogram, congrArg Fin.val hcur, hidle.st, hidle.fg, hidle.fault, hidle.obs, hidle.line, hidle.level, hbw, hacc, hscan, hpoll,
    fun hne => ⟨fun j => (hcopy hne).1 j.val j.isLt, (hcopy hne).2⟩⟩

/-! ## Bytes appended one after the other -/

/-- The cells that an append reads and writes are the same. -/
def State.sameRing (s t : State) : Prop := t.ring = s.ring ∧ t.cur = s.cur ∧ t.fg = s.fg

theorem State.appendByte_congr {s t : State} (h : s.sameRing t) (v : Byte) : (s.appendByte v).sameRing (t.appendByte v) := by
  obtain ⟨hring, hcur, hfg⟩ := h
  exact ⟨by simp [hring, hcur], by simp [hcur], State.appendByte_fg_congr hring hcur hfg v⟩

theorem State.foldl_appendByte_congr {s t : State} (h : s.sameRing t) (bytes : List Byte) :
    (bytes.foldl State.appendByte s).sameRing (bytes.foldl State.appendByte t) := by
  induction bytes generalizing s t with
  | nil => exact h
  | cons d rest ih => exact ih (State.appendByte_congr h d)

/-- No append leaves `Copy(0)`. -/
theorem State.fg_of_foldl_appendByte {s : State} {bytes : List Byte} (h : (bytes.foldl State.appendByte s).fg = fgPoll) :
    s.fg = fgPoll := by
  induction bytes generalizing s with
  | nil => exact h
  | cons d rest ih =>
    have hd := ih h
    rw [State.appendByte_fg] at hd
    split at hd
    · exact absurd hd (by decide)
    · exact hd

theorem State.cur_foldl_appendByte (s : State) (bytes : List Byte) :
    (bytes.foldl State.appendByte s).cur.val = (s.cur.val + bytes.length) % 11 := by
  induction bytes generalizing s with
  | nil => exact (Nat.mod_eq_of_lt s.cur.isLt).symm
  | cons d rest ih =>
    rw [List.foldl_cons, ih, State.appendByte_cur, ringIndex_val, List.length_cons]
    omega

/-- The window is the last eleven bytes, and the window before them. -/
theorem State.win_foldl_appendByte (s : State) (bytes : List Byte) {k : Nat} (hk : k < 11) :
    (bytes.foldl State.appendByte s).win k =
      if k + bytes.length < 11 then s.win (k + bytes.length) else bytes.getD (k + bytes.length - 11) 0x00#8 := by
  induction bytes using List.reverseRecOn generalizing k with
  | nil => simp [hk]
  | append_singleton rest d ih =>
    rw [List.foldl_append, List.foldl_cons, List.foldl_nil, State.win_appendByte _ _ hk, List.length_append, List.length_singleton]
    by_cases h10 : k = 10
    · subst h10
      rw [if_pos rfl, if_neg (by omega), List.getD_append_right _ _ _ _ (by omega)]
      simp [show 10 + (rest.length + 1) - 11 - rest.length = 0 by omega]
    · rw [if_neg h10, ih (by omega), Nat.add_right_comm k 1, Nat.add_assoc k]
      split
      · rfl
      · rw [List.getD_append _ _ _ _ (by omega)]

/-- Eleven bytes fill the window, whatever came before them. -/
theorem State.win_foldl_frame (s : State) (noise : List Byte) {frame : List Byte} (hlen : frame.length = 11) {k : Nat} (hk : k < 11) :
    ((noise ++ frame).foldl State.appendByte s).win k = frame.getD k 0x00#8 := by
  rw [State.win_foldl_appendByte s _ hk, List.length_append, hlen, if_neg (by omega), List.getD_append_right _ _ _ _ (by omega)]
  congr 1; omega

/-- The XOR of a window is that of the bytes in it. -/
theorem State.winXor_eq_foldl (s : State) (bytes : List Byte) (h : ∀ k, k < bytes.length → s.win k = bytes.getD k 0x00#8) :
    s.winXor bytes.length = bytes.foldl (· ^^^ ·) 0x00#8 := by
  induction bytes using List.reverseRecOn with
  | nil => rfl
  | append_singleton rest d ih =>
    rw [List.length_append, List.length_singleton, State.winXor, List.foldl_append, ih, h rest.length (by simp)]
    · simp
    · intro k hk
      rw [h k (by simp; omega), List.getD_append _ _ _ _ hk]

/-! ## A frame on the wire -/

theorem frameBytes_eq (payload : List Byte) : frameBytes payload = [0x55#8, 0xAA#8] ++ payload ++ [payloadChecksum payload] := rfl

/-- A window that a header, eight bytes of payload and one more byte fill: the header matches, the payload stands behind it, and the
checksum matches exactly if the last byte is the payload's. -/
theorem State.window_of_frame {s : State} {payload : List Byte} (hlen : payload.length = 8) {c : Byte}
    (hwin : ∀ k, k < 11 → s.win k = ([0x55#8, 0xAA#8] ++ payload ++ [c]).getD k 0x00#8) :
    s.hm = true ∧ (s.cm = true ↔ c = payloadChecksum payload) ∧ ∀ i, i < 8 → s.win (2 + i) = payload.getD i 0x00#8 := by
  have hlast : s.win 10 = c := by
    rw [hwin 10 (by decide), List.getD_append_right _ _ _ _ (by simp [hlen])]
    simp [hlen]
  have hsum : s.checksum = payloadChecksum payload := by
    have hbytes := s.winXor_eq_foldl ([0x55#8, 0xAA#8] ++ payload) fun k hk => by
      rw [hwin k (by simp [hlen] at hk; omega), List.getD_append _ _ _ _ hk]
    rw [show ([0x55#8, 0xAA#8] ++ payload).length = 10 by simp [hlen]] at hbytes
    exact hbytes
  refine ⟨(State.hm_iff s).2 ⟨hwin 0 (by decide), hwin 1 (by decide)⟩, ?_, fun i hi => ?_⟩
  · rw [State.cm_iff, hsum, hlast, eq_comm]
  · rw [hwin (2 + i) (by omega), List.getD_append _ _ _ _ (by simp [hlen]; omega), List.getD_append_right _ _ _ _ (by simp)]
    simp

/-- Ten bytes appended to a zeroed ring complete no frame: the oldest byte of the window is still 0x00. -/
theorem State.fg_foldl_appendByte_of_zero {s : State} (hfg : s.fg = fgPoll) (hzero : ∀ j : Fin 11, s.ringRead j = 0x00#8)
    {bytes : List Byte} (hlen : bytes.length ≤ 10) : (bytes.foldl State.appendByte s).fg = fgPoll := by
  induction bytes using List.reverseRecOn with
  | nil => exact hfg
  | append_singleton rest d ih =>
    have hshort := hlen
    rw [List.length_append, List.length_singleton] at hshort
    have hwin := State.win_foldl_appendByte s (rest ++ [d]) (k := 0) (by decide)
    rw [if_pos (by omega), show s.win (0 + (rest ++ [d]).length) = 0x00#8 from hzero _, List.foldl_append] at hwin
    have hhm : ((rest.foldl State.appendByte s).appendByte d).hm = false := by
      rw [Bool.eq_false_iff, ne_eq, State.hm_iff]
      exact fun hheader => absurd (hwin.symm.trans hheader.1) (by decide)
    rw [List.foldl_append, List.foldl_cons, List.foldl_nil, State.appendByte_fg, hhm, Bool.false_and, if_neg Bool.false_ne_true]
    exact ih (by omega)

theorem bytesProgram_append (width stops gap : Nat) (a b : List Byte) :
    bytesProgram width stops gap (a ++ b) = bytesProgram width stops gap a ++ bytesProgram width stops gap b := by
  induction a with
  | nil => rfl
  | cons d rest ih => rw [List.cons_append, bytesProgram, bytesProgram, ih, List.append_assoc]

section
variable {s : State} {width stops gap : Nat}

/-- Bytes that complete no frame are received one after the other, and the display stays as it is. -/
theorem receive_bytes (hw : Transmittable width stops) (h : s.Listens stIdle true) {bytes : List Byte}
    (hno : (bytes.foldl State.appendByte s).fg = fgPoll) :
    ∃ t, runProgram (bytesProgram width stops gap bytes) s = .next t ∧ t.Listens stIdle true ∧
      (bytes.foldl State.appendByte s).sameRing t ∧ t.disp = s.disp := by
  induction bytes generalizing s with
  | nil => exact ⟨s, rfl, h, ⟨rfl, rfl, rfl⟩, rfl⟩
  | cons d rest ih =>
    have hd := State.fg_of_foldl_appendByte (bytes := rest) hno
    obtain ⟨u, hbyte, hidle, -, -, hcur, -, hpoll, -⟩ := receive_byte hw h d gap
    obtain ⟨hring, hdisp⟩ := hpoll hd
    have hsame : (s.appendByte d).sameRing u :=
      ⟨hring.trans (State.appendByte_ring s d).symm, hcur.trans (State.appendByte_cur s d).symm, hidle.fg.trans hd.symm⟩
    obtain ⟨hring', hcur', hfg'⟩ := State.foldl_appendByte_congr hsame rest
    obtain ⟨t, hrest, hidle', ⟨hring'', hcur'', hfg''⟩, hdisp'⟩ := ih hidle (hfg'.trans hno)
    exact ⟨t, runProgram_append.2 ⟨u, hbyte, hrest⟩, hidle', ⟨hring''.trans hring', hcur''.trans hcur', hfg''.trans hfg'⟩,
      hdisp'.trans hdisp⟩

/-- One more byte after bytes that complete no frame. -/
theorem receive_bytes_concat (hw : Transmittable width stops) (h : s.Listens stIdle true) {bytes : List Byte}
    (hno : (bytes.foldl State.appendByte s).fg = fgPoll) (c : Byte) :
    ∃ t, runProgram (bytesProgram width stops gap (bytes ++ [c])) s = .next t ∧ t.Listens stIdle true ∧
      t.cur = ((bytes ++ [c]).foldl State.appendByte s).cur ∧
      (((bytes ++ [c]).foldl State.appendByte s).fg = fgPoll →
        t.ring = ((bytes ++ [c]).foldl State.appendByte s).ring ∧ t.disp = s.disp) ∧
      (((bytes ++ [c]).foldl State.appendByte s).fg ≠ fgPoll →
        (∀ j, j < 11 → t.ring.read j = 0x00#8) ∧
          ∀ i : Fin 8, t.disp.read i.val = ((bytes ++ [c]).foldl State.appendByte s).win (2 + i.val)) := by
  obtain ⟨u, hbytes, hidle, hsame, hdisp⟩ := receive_bytes hw h (gap := gap) hno
  obtain ⟨t, hbyte, hidle', -, -, hcur, -, hpoll, hcopy⟩ := receive_byte hw hidle c gap
  obtain ⟨hring', hcur', hfg'⟩ := State.appendByte_congr hsame c
  rw [List.foldl_append, List.foldl_cons, List.foldl_nil, ← hcur', ← hfg', ← hring']
  have hone : runProgram (bytesProgram width stops gap [c]) u = .next t := by
    rw [bytesProgram, bytesProgram, List.append_nil]; exact hbyte
  refine ⟨t, by rw [bytesProgram_append]; exact runProgram_append.2 ⟨u, hbytes, hone⟩, hidle',
    hcur.trans (State.appendByte_cur u c).symm, fun hfg => ?_, fun hne => ⟨(hcopy hne).1, fun i => ?_⟩⟩
  · exact ⟨(hpoll hfg).1.trans (State.appendByte_ring u c).symm, (hpoll hfg).2.trans hdisp⟩
  · rw [(hcopy hne).2, State.win_congr hring' hcur']

end

/-- The window after a frame's first ten bytes and one more byte. -/
theorem window_after_last_byte (s : State) (noise : List Byte) {payload : List Byte} (hlen : payload.length = 8) (c : Byte) :
    ∀ k, k < 11 → ((noise ++ [0x55#8, 0xAA#8] ++ payload ++ [c]).foldl State.appendByte s).win k =
      ([0x55#8, 0xAA#8] ++ payload ++ [c]).getD k 0x00#8 := by
  intro k hk
  have hassoc : noise ++ [0x55#8, 0xAA#8] ++ payload ++ [c] = noise ++ ([0x55#8, 0xAA#8] ++ payload ++ [c]) := by
    simp only [List.append_assoc]
  rw [hassoc]
  exact s.win_foldl_frame noise (by simp [hlen]) hk

/-- The last byte of a frame completes it exactly if it is the payload's checksum. -/
theorem fg_after_last_byte {s : State} {noise payload : List Byte} (hlen : payload.length = 8)
    (hno : ((noise ++ [0x55#8, 0xAA#8] ++ payload).foldl State.appendByte s).fg = fgPoll) (c : Byte) :
    ((noise ++ [0x55#8, 0xAA#8] ++ payload ++ [c]).foldl State.appendByte s).fg =
      if c = payloadChecksum payload then fgCopy0 else fgPoll := by
  obtain ⟨hhm, hcm, -⟩ := State.window_of_frame hlen (window_after_last_byte s noise hlen c)
  rw [List.foldl_append, List.foldl_cons, List.foldl_nil] at hhm hcm ⊢
  rw [State.appendByte_fg, hno, hhm, Bool.true_and]
  simp only [hcm]

/-- Settles O59: the last byte of the frame decides, in the window that the frame fills. -/
theorem frameRoundTrip : Obligations.FrameRoundTrip := by
  refine ⟨fun s payload noise width stops gap hlen hr hf hfg hst hobs hline hlevel hwidth hstops hfits hno => ?_,
    fun s payload hlen hfg hzero => State.fg_foldl_appendByte_of_zero hfg hzero (by simp [hlen]), fun _ _ => rfl⟩
  have hidle : s.Listens stIdle true := ⟨hr, hf, hfg, hst, hobs, hline, hlevel⟩
  have hw : Transmittable width stops := ⟨hwidth, hstops, hfits⟩
  refine ⟨?_, ?_, fun c hc => ?_⟩
  · obtain ⟨t, hprogram, -, -, hdisp⟩ := receive_bytes hw hidle hno
    exact ⟨t, hprogram, hdisp⟩
  · obtain ⟨t, hprogram, hidle', hcur, -, hcopy⟩ := receive_bytes_concat hw hidle (gap := gap) hno (payloadChecksum payload)
    have hlast := fg_after_last_byte hlen hno (payloadChecksum payload)
    rw [if_pos rfl] at hlast
    obtain ⟨hring, hdisp⟩ := hcopy (by rw [hlast]; decide)
    obtain ⟨-, -, hpayload⟩ := State.window_of_frame hlen (window_after_last_byte s noise hlen (payloadChecksum payload))
    refine ⟨t, ?_, fun i => (hdisp i).trans (hpayload i i.isLt), fun j => hring j.val j.isLt, ?_, hidle'.st, hidle'.fg, hidle'.fault,
      hidle'.obs, hidle'.line⟩
    · rw [frameBytes_eq, ← List.append_assoc, ← List.append_assoc]
      exact hprogram
    · rw [hcur, State.cur_foldl_appendByte]
      simp [hlen]
      omega
  · obtain ⟨t, hprogram, hidle', hcur, hpoll, -⟩ := receive_bytes_concat hw hidle (gap := gap) hno c
    have hlast := fg_after_last_byte hlen hno c
    rw [if_neg hc] at hlast
    obtain ⟨hring, hdisp⟩ := hpoll hlast
    exact ⟨t, hprogram, hdisp, fun k hk => (State.win_congr hring hcur k).trans (window_after_last_byte s noise hlen c k hk), hidle'.st,
      hidle'.fg, hidle'.fault⟩

end Sys2Proof.Machine

/-!
EdgeCapture and the interval timer (spec/40_edge_capture.md): what the timer and a capture do, and that the level in the mailbox
stays the level of the line.
-/

namespace Sys2Proof.Machine

/-! ## The mailbox and the line -/

/-- All that a fetch can do to the state: it takes the trigger, or the sub-operation selector, that it has read. -/
theorem fetch_frame {s s' : State} {i : Instr} (h : fetch s = .ok (i, s')) :
    s' = (s.setSchedule s'.schedule).setSubSel s'.subSel := by
  by_cases hcfg : s.cfg = BringUp.complete
  · cases hsub : s.subSel with
    | some w =>
      cases hdec : decodeSub w with
      | ok j => rw [fetch_sub hcfg hsub hdec] at h; cases h; rfl
      | error e => rw [fetch_sub_refused hcfg hsub hdec] at h; cases h
    | none =>
      rw [fetch_top ⟨hcfg, hsub⟩, nextTrigger_eq] at h
      split at h
      · cases h; rfl
      · cases h
  · simp [fetch, hcfg] at h

/-- A capture puts the new level of the line into the mailbox (R142), and no other operation writes either cell. -/
theorem exec_keeps_mailboxLevel {i : Instr} {s t : State} (hlevel : s.obs.level = s.line) (h : exec i s = .next t) :
    t.obs.level = t.line := by
  by_cases hcap : ∃ l, i = .cap l
  · obtain ⟨l, rfl⟩ := hcap
    obtain ⟨-, rfl⟩ := exec_cap.1 h
    rfl
  · obtain ⟨hwriters, -⟩ := eachCellHasItsWriters i s t h
    obtain ⟨hline, hobs⟩ : t.line = s.line ∧ t.obs = s.obs := by simpa using mt hwriters hcap
    rw [hline, hobs, hlevel]

/-- Settles O49: a fetch touches neither cell, every operation keeps them equal, and a capture needs a level other than the line's. -/
theorem mailboxLevelIsTheLineLevel : Obligations.MailboxLevelIsTheLineLevel := by
  refine ⟨fun s t hlevel hstep => ?_, fun s t l h => ?_⟩
  · obtain ⟨i, s', hfetch, hexec⟩ := step_next hstep
    have hlevel' : s'.obs.level = s'.line := by rw [fetch_frame hfetch]; exact hlevel
    exact exec_keeps_mailboxLevel hlevel' hexec
  · obtain ⟨hl, rfl⟩ := exec_cap.1 h
    exact Bool.eq_not.2 hl

/-! ## The timer and the capture -/

/-- The selectors of `TMR.INC`, by its row of R113. -/
theorem decodeTop_tmrInc_iff (w : BitVec 12) : decodeTop w = .ok .tmrInc ↔ w &&& 0xC00#12 = 0x000#12 := by
  rw [decodeTop_ok_iff]
  simp [topTable, SelRow.covers_iff]

/-- The selectors of `CAP L`, by its row of R113; the operand is the field `LV`. -/
theorem decodeTop_cap_iff (w : BitVec 12) (l : Level) :
    decodeTop w = .ok (.cap l) ↔ w &&& 0xC00#12 = 0x400#12 ∧ w.getLsbD 2 = l := by
  rw [decodeTop_ok_iff]
  simp [topTable, SelRow.covers_iff]

/-- Settles O10: the timer's successor is the sum modulo `2^TW`. -/
theorem timerIncrement : Obligations.TimerIncrement := by
  refine ⟨decodeTop_tmrInc_iff, rfl, fun s => exec_tmrInc.2 ?_⟩
  have hsum : BitVec.ofNat Config.timerWidth ((s.tcnt.toNat + 1) % 2 ^ Config.timerWidth) = s.tcnt + 1#16 :=
    BitVec.eq_of_toNat_eq (by simp)
  rw [hsum]; rfl

/-- Settles O11: a transition at the head of the schedule selects its own capture. -/
theorem captureOfATransition : Obligations.CaptureOfATransition := by
  refine ⟨decodeTop_cap_iff, fun _ => rfl, fun s l hl => exec_cap.2 ⟨hl, rfl⟩, fun s l rest hr hsched hl => ?_⟩
  rw [step_next_iff hr, hsched]
  exact ⟨.cap l, rfl, exec_cap.2 ⟨hl, rfl⟩⟩

end Sys2Proof.Machine

/-!
SignalDecoder (spec/41_signal_decoder.md): the selectors of its operations, the period count, one shift and the loop of shifts, and the
next state of every operation of a poll.
-/

namespace Sys2Proof.Machine

/-! ## The selectors of the decoder's operations -/

/-- The selectors of an operation without an operand are the words with the fixed digits of its pattern (R113). -/
theorem decodeTop_iff_of_pattern {i : Instr} {m v : BitVec 12} (hmask : careMask i = .top m) (hval : encode i = .top v)
    (w : BitVec 12) : decodeTop w = .ok i ↔ w &&& m = v := by
  simp [decodeTop_iff_matchesPattern, matchesPattern, hmask, hval]

/-- The selectors of `DATA.EDGE L`, by its row of R113; the operand is the field `LV`. -/
theorem decodeTop_dataEdge_iff (w : BitVec 12) (l : Level) :
    decodeTop w = .ok (.dataEdge l) ↔ w &&& 0xFFB#12 = 0x828#12 ∧ w.getLsbD 2 = l := by
  rw [decodeTop_ok_iff]
  simp [topTable, SelRow.covers_iff]

/-- The selector of `PERIODS`: its row of R115 ignores no bit. -/
theorem decodeSub_periods_iff (w : BitVec 8) : decodeSub w = .ok .periods ↔ w = 0x10#8 := by
  have hmask : w &&& 0xFF#8 = w := BitVec.and_allOnes
  rw [decodeSub_ok_iff]
  simp [subTable, SelRow.covers_iff, hmask]

/-- The selectors of `SHIFT b`, by its row of R115; the operand is bit 0. -/
theorem decodeSub_shift_iff (w : BitVec 8) (b : Bool) :
    decodeSub w = .ok (.shift b) ↔ w &&& 0xFE#8 = 0x20#8 ∧ w.getLsbD 0 = b := by
  rw [decodeSub_ok_iff]
  simp [subTable, SelRow.covers_iff]

/-! ## The period count -/

section
variable {width : Nat} (iv bw : BitVec width)

/-- The count in natural numbers, with the subtraction modulo `2^TW` (R158). -/
theorem periods_eq : periods iv bw = (iv.toNat + 2 ^ width - bw.toNat / 2) % 2 ^ width / bw.toNat + 1 := by
  have hhalf : bw.toNat / 2 ≤ 2 ^ width := (Nat.div_le_self _ _).trans bw.isLt.le
  rw [periods, BitVec.toNat_sub, BitVec.toNat_ushiftRight, Nat.shiftRight_one, Nat.add_comm iv.toNat, Nat.sub_add_comm hhalf]

/-- From half a period on the subtraction does not wrap. -/
theorem periods_of_half_le (h : bw.toNat / 2 ≤ iv.toNat) : periods iv bw = (iv.toNat - bw.toNat / 2) / bw.toNat + 1 := by
  have hlt := iv.isLt
  rw [periods_eq, Nat.sub_add_comm h, Nat.add_mod_right, Nat.mod_eq_of_lt (by omega)]

/-- Below half a period the subtraction wraps. -/
theorem periods_of_lt_half (h : iv.toNat < bw.toNat / 2) :
    periods iv bw = (2 ^ width - (bw.toNat / 2 - iv.toNat)) / bw.toNat + 1 := by
  have hlt := bw.isLt
  have hsub : iv.toNat + 2 ^ width - bw.toNat / 2 = 2 ^ width - (bw.toNat / 2 - iv.toNat) := by omega
  rw [periods_eq, hsub, Nat.mod_eq_of_lt (by omega)]

theorem one_le_periods : 1 ≤ periods iv bw := Nat.le_add_left 1 _

/-- The quotient stays below the range of the timer, so the count needs at most one value more. -/
theorem periods_le : periods iv bw ≤ 2 ^ width :=
  Nat.succ_le_of_lt ((Nat.div_le_self _ _).trans_lt (BitVec.isLt _))

end

/-- Settles O22: `PERIODS` alone only looks whether `bw` is 0. -/
theorem periodCount : Obligations.PeriodCount :=
  ⟨decodeSub_periods_iff, fun _ iv bw _ => ⟨periods_eq iv bw, one_le_periods iv bw, periods_le iv bw⟩,
    fun _ hbw => exec_periods.2 ⟨hbw, rfl⟩⟩

/-- Settles O24: the quotient of the elapsed time is `k - 1` exactly between `k - 1` and `k` widths. -/
theorem countingWindow : Obligations.CountingWindow := by
  intro width iv bw k hbw hk hhalf
  obtain ⟨j, rfl⟩ : ∃ j, k = j + 1 := ⟨k - 1, by omega⟩
  rw [periods_of_half_le iv bw hhalf, Nat.add_right_cancel_iff, Nat.div_eq_iff (by omega), Nat.add_sub_cancel, Nat.succ_mul]
  omega

/-- Refutes O25: at `bw = 300` an interval of 149 is counted as 219 periods (R158), far below the window of 219. -/
theorem not_countingWindowAsWritten : ¬ Obligations.CountingWindowAsWritten := by
  intro h
  have hcount : periods 149#16 300#16 = 219 := by decide
  obtain ⟨hlow, -⟩ := (h 149#16 300#16 219 (by decide) (by decide)).1 hcount
  exact absurd hlow (by decide)

/-- Settles O26: half of one tick is no tick; and the wrapped difference is at least the timer's range less one period. -/
theorem periodCountCorners : Obligations.PeriodCountCorners := by
  refine ⟨fun width iv bw hone => ?_, fun width iv bw hlt => ?_⟩
  · rw [periods_of_half_le iv bw (by omega), hone, Nat.div_one]; rfl
  · have hwrap := periods_of_lt_half iv bw hlt
    refine ⟨hwrap, fun hten => ?_⟩
    have hnine : 9 ≤ (2 ^ width - (bw.toNat / 2 - iv.toNat)) / bw.toNat := by
      rw [Nat.le_div_iff_mul_le (by omega)]; omega
    omega

/-- Settles O23: without a quotient `PERIODS` alone stops by name. -/
theorem periodsAloneWithZeroWidthFaults : Obligations.PeriodsAloneWithZeroWidthFaults :=
  fun _ hbw => if_pos ((State.bz_iff _).2 hbw)

/-! ## One shift -/

/-- A bit shifted in doubles the byte and adds the bit (R159). -/
theorem shiftIn_eq_ofNat (data : Byte) (b : Bool) : shiftIn data b = BitVec.ofNat 8 ((data.toNat * 2 + b.toNat) % 256) := by
  have hbit : shiftIn data b = data.shiftConcat b := by
    refine BitVec.eq_of_getLsbD_eq fun j hj => ?_
    rw [shiftIn, BitVec.getLsbD_or, BitVec.getLsbD_shiftLeft, BitVec.getLsbD_shiftConcat]
    cases j with
    | zero => cases b <;> rfl
    | succ j => cases b <;> simp
  refine BitVec.eq_of_toNat_eq ?_
  rw [hbit, BitVec.toNat_shiftConcat, BitVec.toNat_ofNat, Nat.mod_mod, Nat.shiftLeft_eq]

/-- Settles O27: the ninth bit is the one counted from 8, and a shift then is the append of the new accumulator's byte. -/
theorem shiftOneBit : Obligations.ShiftOneBit := by
  refine ⟨decodeSub_shift_iff, fun s b => ?_⟩
  have hacc := State.shiftBit_acc s b
  have hshift := State.shiftBit_eq s b
  rw [shiftIn_eq_ofNat] at hacc hshift
  exact ⟨⟨s.shiftBit b, rfl, hacc⟩, (countUp_eq_nine_iff s.acc.cnt).trans (BitVec.toNat_inj (y := 8#4)),
    fun hnine => congrArg Host.Outcome.next (hshift.trans (if_pos hnine)),
    fun hnine => congrArg Host.Outcome.next (hshift.trans (if_neg hnine))⟩

/-! ## The loop of shifts -/

/-- Settles O58: from a count of 9 on one shift is the last, and below it ten bits reach past the ninth. -/
theorem tenPeriodsActAlike : Obligations.TenPeriodsActAlike := by
  intro b n s hn
  rcases Nat.lt_or_ge s.acc.cnt.toNat 9 with h | h
  · rw [State.shiftLoop_ten (n := n) (by omega) (by omega), State.shiftLoop_ten (n := 10) (by omega) (by omega)]
  · rw [State.shiftLoop_past (n := n) h (by omega), State.shiftLoop_past (n := 10) h (by omega)]

/-- The loop is a run of single shifts: as many as asked for, or as many as take the count past 9. -/
theorem shiftLoop_runs_shifts (b : Bool) {n : Nat} (hn : 1 ≤ n) (s : State) :
    ∃ k, 1 ≤ k ∧ k ≤ n ∧ execAll (List.replicate k (.shift b)) s = .next (State.shiftLoop b n s) ∧
      (k = n ∨ 9 < (State.shiftLoop b n s).acc.cnt.toNat) ∧
      ∀ j, 1 ≤ j → j < k → ∃ v, execAll (List.replicate j (.shift b)) s = .next v ∧ v.acc.cnt.toNat ≤ 9 := by
  induction n, hn using Nat.le_induction generalizing s with
  | base =>
    have hone : State.shiftLoop b 1 s = s.shiftBit b := by rw [State.shiftLoop_succ]; exact ite_self _
    exact ⟨1, le_rfl, le_rfl, congrArg Host.Outcome.next hone.symm, .inl rfl, fun j h1 hj => absurd hj (by omega)⟩
  | succ n hn ih =>
    rw [State.shiftLoop_succ]
    have hcnt := State.shiftBit_cnt b s
    split
    · exact ⟨1, le_rfl, by omega, rfl, .inr (by omega), fun j h1 hj => absurd hj (by omega)⟩
    · obtain ⟨k, hk1, hkn, hrun, hend, hbefore⟩ := ih (s.shiftBit b)
      refine ⟨k + 1, by omega, by omega, hrun, hend.imp_left (congrArg (· + 1)), fun j h1 hj => ?_⟩
      match j, h1 with
      | 1, _ => exact ⟨s.shiftBit b, rfl, by omega⟩
      | j + 2, _ => exact hbefore (j + 1) (by omega) (by omega)

/-- `DATA.EDGE` after its loop: the stop test (R157). -/
theorem State.dataEdge_eq (s : State) :
    s.dataEdge =
      let u := State.shiftLoop s.obs.level (periods s.obs.interval s.bw) s.sawObs
      if 9 < u.acc.cnt.toNat ∧ s.obs.level = true then u.setSt stIdle else u := by
  have hstop : ∀ u : State, (u.stop && s.obs.level) = true ↔ 9 < u.acc.cnt.toNat ∧ s.obs.level = true := by simp [State.stop]
  simp only [State.dataEdge, hstop, bitValue]

/-- Settles O21: the loop is a run of single shifts, and `PERIODS` before it changes nothing. -/
theorem dataEdgeRunsItsSubOperations : Obligations.DataEdgeRunsItsSubOperations := by
  refine ⟨decodeTop_dataEdge_iff, fun s hf hfg hst hobs hbw => ?_⟩
  obtain ⟨k, hk1, hkn, hrun, hend, hbefore⟩ := shiftLoop_runs_shifts s.obs.level (one_le_periods s.obs.interval s.bw) s.sawObs
  have hperiods : exec .periods s.sawObs = .next s.sawObs := exec_periods.2 ⟨hbw, rfl⟩
  refine ⟨k, _, hk1, hkn, ?_, hend, hbefore, exec_dataEdge.2 ⟨hf, hfg, hobs, hst, rfl, hbw, (State.dataEdge_eq s).symm⟩⟩
  show execAll _ s.sawObs = _
  rw [execAll, hperiods]
  exact hrun

/-! ## `DATA.EDGE` in closed form -/

/-- How many of `n` bits the loop shifts in from a count of `cnt`: up to a count of 10, and at least one. -/
def bitsShifted (cnt n : Nat) : Nat := min n (if cnt < 10 then 10 - cnt else 1)

/-- A byte after `j` copies of a bit have been shifted in. -/
def shiftedBy (data : Byte) (b : Bool) (j : Nat) : Byte := (data <<< j) ||| (if b then (1#8 <<< j) - 1#8 else 0#8)

/-- A run of `j` ones, one longer. -/
theorem ones_shiftLeft_or_one : ∀ x : Byte, (x - 1#8) <<< 1 ||| 1#8 = x <<< 1 - 1#8 := by decide

theorem shiftIn_shiftedBy (data : Byte) (b : Bool) (j : Nat) : shiftIn (shiftedBy data b j) b = shiftedBy data b (j + 1) := by
  cases b with
  | false => simp [shiftIn, shiftedBy, BitVec.shiftLeft_add]
  | true =>
    simp only [shiftIn, shiftedBy, if_true, BitVec.shiftLeft_or_distrib, BitVec.shiftLeft_add, BitVec.or_assoc, ones_shiftLeft_or_one]

theorem iterate_shiftIn (data : Byte) (b : Bool) (j : Nat) : (shiftIn · b)^[j] data = shiftedBy data b j := by
  induction j with
  | zero => cases b <;> simp [shiftedBy]
  | succ j ih => rw [Function.iterate_succ_apply', ih, shiftIn_shiftedBy]

/-- The state that `k` shifts leave but for the accumulator: the byte of the ninth bit appended, if that bit is among the `k`. -/
def State.ninthBitAppended (s : State) (b : Bool) (k : Nat) : State :=
  if s.acc.cnt.toNat ≤ 8 ∧ 9 ≤ s.acc.cnt.toNat + k then s.appendByte (shiftedBy s.acc.data b (9 - s.acc.cnt.toNat)) else s

/-- The accumulator after `k` shifts. -/
def Accumulator.shifted (a : Accumulator) (b : Bool) (k : Nat) : Accumulator :=
  ⟨shiftedBy a.data b k, BitVec.ofNat 4 (min (a.cnt.toNat + k) 10)⟩

theorem Accumulator.shifted_cnt (a : Accumulator) (b : Bool) (k : Nat) : (a.shifted b k).cnt.toNat = min (a.cnt.toNat + k) 10 := by
  rw [Accumulator.shifted, BitVec.toNat_ofNat]; omega

/-- The loop in closed form: before the ninth bit, at it, past it, and from a count of 9 on. -/
theorem State.shiftLoop_eq (b : Bool) {n : Nat} (hn : 1 ≤ n) (s : State) :
    State.shiftLoop b n s =
      (s.ninthBitAppended b (bitsShifted s.acc.cnt.toNat n)).setAcc (s.acc.shifted b (bitsShifted s.acc.cnt.toNat n)) := by
  rw [State.ninthBitAppended, Accumulator.shifted]
  rcases Nat.lt_or_ge s.acc.cnt.toNat 9 with hcnt | hcnt
  · have hbits : bitsShifted s.acc.cnt.toNat n = min n (10 - s.acc.cnt.toNat) := by rw [bitsShifted, if_pos (by omega)]
    rcases Nat.lt_trichotomy (s.acc.cnt.toNat + n) 9 with h | h | h
    · rw [State.shiftLoop_below (by omega), iterate_shiftIn, hbits, Nat.min_eq_left (by omega), if_neg (by omega),
        Nat.min_eq_left (by omega)]
    · rw [State.shiftLoop_nine h hn, iterate_shiftIn, hbits, Nat.min_eq_left (by omega), if_pos (by omega),
        Nat.min_eq_left (by omega), h, show 9 - s.acc.cnt.toNat = n by omega]
    · rw [State.shiftLoop_ten (by omega) (by omega), iterate_shiftIn, shiftIn_shiftedBy, hbits, Nat.min_eq_right (by omega),
        if_pos (by omega), Nat.min_eq_right (by omega), show 9 - s.acc.cnt.toNat + 1 = 10 - s.acc.cnt.toNat by omega]
  · have hbits : bitsShifted s.acc.cnt.toNat n = 1 := by rw [bitsShifted]; split <;> omega
    rw [State.shiftLoop_past hcnt hn, hbits, if_neg (by omega), Nat.min_eq_right (by omega), ← iterate_shiftIn _ _ 1]
    rfl

/-- An append does not look at the last-seen observation. -/
theorem State.appendByte_setLast (s : State) (o : Observation) (v : Byte) :
    (s.setLast o).appendByte v = (s.appendByte v).setLast o := by
  rw [State.appendByte_eq, State.appendByte_eq]; rfl

theorem State.ninthBitAppended_setLast (s : State) (o : Observation) (b : Bool) (k : Nat) :
    (s.setLast o).ninthBitAppended b k = (s.ninthBitAppended b k).setLast o := by
  simp only [State.ninthBitAppended, State.setLast_acc, State.appendByte_setLast]
  split <;> rfl

theorem State.ninthBitAppended_st (s : State) (b : Bool) (k : Nat) : (s.ninthBitAppended b k).st = s.st := by
  rw [State.ninthBitAppended]; split <;> simp

/-- `DATA.EDGE` in closed form, from any state: its loop, and the stop test on the count that the loop leaves. -/
theorem State.dataEdge_closed (s : State) :
    let k := bitsShifted s.acc.cnt.toNat (periods s.obs.interval s.bw)
    s.dataEdge = (((s.ninthBitAppended s.obs.level k).setLast s.obs).setAcc (s.acc.shifted s.obs.level k)).setSt
      (if 9 < s.acc.cnt.toNat + k ∧ s.obs.level = true then stIdle else s.st) := by
  intro k
  have hloop : State.shiftLoop s.obs.level (periods s.obs.interval s.bw) s.sawObs =
      ((s.ninthBitAppended s.obs.level k).setLast s.obs).setAcc (s.acc.shifted s.obs.level k) := by
    rw [State.shiftLoop_eq _ (one_le_periods _ _), State.sawObs, State.ninthBitAppended_setLast]; rfl
  have hstop : 9 < (s.acc.shifted s.obs.level k).cnt.toNat ↔ 9 < s.acc.cnt.toNat + k := by
    rw [Accumulator.shifted_cnt]; omega
  simp only [State.dataEdge_eq, hloop, State.setAcc_acc, hstop]
  split
  · rfl
  · rw [← State.ninthBitAppended_st s s.obs.level k]; rfl

/-- Settles O20: `DATA.EDGE` in closed form, with the period count written out (R158). -/
theorem dataEdgeClosedForm : Obligations.DataEdgeClosedForm := by
  intro s hf hfg hst hobs hbw _
  refine exec_dataEdge.2 ⟨hf, hfg, hobs, hst, rfl, hbw, ?_⟩
  rw [State.dataEdge_closed, hst, periods_eq]
  rfl

/-! ## The operations of a poll -/

/-- Settles O15: the fault bit alone selects `HALT`, and no other agent's condition looks at it. -/
theorem haltAfterTheFault : Obligations.HaltAfterTheFault := by
  refine ⟨decodeTop_iff_of_pattern rfl rfl, fun s hf => ⟨?_, exec_halt.2 ⟨hf, rfl⟩, ?_, ?_, ?_, fun l hl => ?_⟩⟩
  · exact (decodeTop_foreground s .halt).2 (foregroundOp_of_enables rfl rfl hf)
  · simp [State.over, hf]
  · exact exec_completes_iff.2 trivial
  · exact exec_completes_iff.2 trivial
  · exact exec_completes_iff.2 hl

/-- Settles O16: the premises are R151's condition, and the operation has no effect. -/
theorem pollWithoutChange : Obligations.PollWithoutChange :=
  ⟨decodeTop_iff_of_pattern rfl rfl, fun _ hf hfg hobs => exec_pollNop.2 ⟨hf, hfg, hobs, rfl⟩⟩

/-- Settles O17: in `Idle` the level of the changed observation decides which of the two operations is enabled. -/
theorem idleOperations : Obligations.IdleOperations :=
  ⟨decodeTop_iff_of_pattern rfl rfl, decodeTop_iff_of_pattern rfl rfl, fun _ hf hfg hst hobs =>
    ⟨fun hl => exec_idleFall.2 ⟨hf, hfg, hobs, hst, hl, rfl⟩, fun hl => exec_idleRise.2 ⟨hf, hfg, hobs, hst, hl, rfl⟩⟩⟩

/-- Settles O18: in `Start` the level decides; `START.RISE` has no condition on the interval. -/
theorem startOperations : Obligations.StartOperations :=
  ⟨decodeTop_iff_of_pattern rfl rfl, decodeTop_iff_of_pattern rfl rfl, fun _ hf hfg hst hobs =>
    ⟨fun hl => exec_startRise.2 ⟨hf, hfg, hobs, hst, hl, rfl⟩, fun hl => exec_startFall.2 ⟨hf, hfg, hobs, hst, hl, rfl⟩⟩⟩

/-- Settles O19: the premises are R156's condition, and the fault is a write of one cell. -/
theorem dataFaultTakesTheFault : Obligations.DataFaultTakesTheFault :=
  ⟨decodeTop_iff_of_pattern rfl rfl, fun _ hf hfg hst hobs hbw => exec_dataFault.2 ⟨hf, hfg, hobs, hst, hbw, rfl⟩⟩

/-! ## The transitions of the decoder -/

/-- The operations with `st` in their footprint. -/
theorem st_writers {i : Instr} {s t : State} (h : exec i s = .next t) (hst : t.st ≠ s.st) :
    i = .idleFall ∨ i = .startRise ∨ ∃ l, i = .dataEdge l := by
  rw [exec_footprint h] at hst
  revert hst
  cases i <;> simp [State.footprint]

/-- Settles O28: each of the three writers of `st` moves it under its own condition, `DATA.EDGE` by its stop test. -/
theorem decoderStateTransitions : Obligations.DecoderStateTransitions := by
  intro i s t h hst
  rcases st_writers h hst with rfl | rfl | ⟨l, rfl⟩
  · obtain ⟨-, -, -, hidle, hl, rfl⟩ := exec_idleFall.1 h
    exact .inl ⟨rfl, hidle, hl, rfl⟩
  · obtain ⟨-, -, -, hstart, hl, rfl⟩ := exec_startRise.1 h
    exact .inr (.inl ⟨rfl, hstart, hl, rfl⟩)
  · obtain ⟨-, -, -, hdata, rfl, -, rfl⟩ := exec_dataEdge.1 h
    have hend := State.dataEdge_st s
    split at hend
    · next hstop => exact .inr (.inr ⟨by rw [hstop.2], hdata, hstop.2, hstop.1, hend⟩)
    · exact absurd hend hst

end Sys2Proof.Machine

/-!
FrameSync (spec/42_frame_sync.md): the append and its scan, the copies and the clear, acceptance at every rotation, and the copy-out of
an accepted frame among the operations of the other agents.
-/

namespace Sys2Proof.Machine

/-! ## The selectors of FrameSync -/

/-- The selectors of a sub-operation without an operand are the words with the fixed digits of its pattern (R115). -/
theorem decodeSub_iff_of_pattern {i : Instr} {m v : BitVec 8} (hmask : careMask i = .sub m) (hval : encode i = .sub v)
    (w : BitVec 8) : decodeSub w = .ok i ↔ w &&& m = v := by
  simp [decodeSub_iff_matchesPattern, matchesPattern, hmask, hval]

/-- A pattern without an ignored digit is of one word. -/
theorem decodeSub_iff_of_word {i : Instr} {v : BitVec 8} (hmask : careMask i = .sub 0xFF#8) (hval : encode i = .sub v)
    (w : BitVec 8) : decodeSub w = .ok i ↔ w = v := by
  have hall : w &&& 0xFF#8 = w := BitVec.and_allOnes
  rw [decodeSub_iff_of_pattern hmask hval, hall]

/-! ## The append and its scan -/

theorem State.ringRead_appendByte (s : State) (v : Byte) (j : Fin 11) :
    (s.appendByte v).ringRead j = if j = s.cur then v else s.ringRead j := by
  rw [State.ringRead, State.appendByte_ring, Memory.read_write]
  simp only [Fin.val_inj, State.ringRead]

/-- The scan that `APPEND` invokes is the effect of the one scan operation whose condition holds (R180). -/
theorem exists_exec_scan (s : State) :
    ∃ op ∈ [Instr.scanNohdr, Instr.scanBadsum, Instr.scanAccept], exec op s = .next s.scan := by
  unfold State.scan
  cases hhm : s.hm with
  | false => exact ⟨.scanNohdr, by simp, exec_scanNohdr.2 ⟨hhm, rfl⟩⟩
  | true =>
    cases hcm : s.cm with
    | false => exact ⟨.scanBadsum, by simp, exec_scanBadsum.2 ⟨hhm, hcm, rfl⟩⟩
    | true => exact ⟨.scanAccept, by simp, exec_scanAccept.2 ⟨hhm, hcm, rfl⟩⟩

/-- An append is its two writes, then the scan. -/
theorem State.scan_of_append (s : State) (v : Byte) :
    ((s.setRing (s.appendByte v).ring).setCur (s.appendByte v).cur).scan = s.appendByte v := by
  rw [State.appendByte_ring, State.appendByte_cur]; rfl

/-- Settles O29: the new byte stands at the old cursor, which is the end of the window that the new cursor begins. -/
theorem appendOneByte : Obligations.AppendOneByte := by
  refine ⟨decodeSub_iff_of_word rfl rfl, fun s => ?_⟩
  have hexec : exec .append s = .next (s.appendByte s.acc.data) := exec_append.2 rfl
  obtain ⟨op, hop, hscan⟩ := exists_exec_scan
    ((s.setRing (s.appendByte s.acc.data).ring).setCur (s.appendByte s.acc.data).cur)
  rw [State.scan_of_append] at hscan
  refine ⟨_, hexec, s.ringRead_appendByte _, ?_, exec_footprint hexec, ⟨op, hop, hscan⟩, ?_, fun k hk => ?_, fun u hclear => ?_⟩
  · rw [State.appendByte_cur, ringIndex_val]
  · rw [State.win_appendByte s _ (by decide), if_pos rfl]
  · rw [State.win_appendByte s _ (by omega), if_neg (by omega)]
  · obtain ⟨-, -, rfl⟩ := exec_clear.1 hclear
    rfl

theorem State.checksum_eq (s : State) :
    s.checksum = s.win 0 ^^^ s.win 1 ^^^ s.win 2 ^^^ s.win 3 ^^^ s.win 4 ^^^ s.win 5 ^^^ s.win 6 ^^^ s.win 7 ^^^ s.win 8 ^^^ s.win 9 := by
  simp only [State.checksum, State.winXor, BitVec.zero_xor]

/-- Settles O30: the three conditions are those on `hm` and `cm`, and the header XORs to 0xFF. -/
theorem scanOutcomes : Obligations.ScanOutcomes := by
  refine ⟨decodeSub_iff_of_pattern rfl rfl, decodeSub_iff_of_word rfl rfl, decodeSub_iff_of_word rfl rfl, ?_⟩
  intro s win x
  have hhm : s.hm = true ↔ win 0 = 0x55#8 ∧ win 1 = 0xAA#8 := s.hm_iff
  have hcm : s.cm = true ↔ x = win 10 := by rw [State.cm_iff, State.checksum_eq]; rfl
  refine ⟨fun h => exec_scanNohdr.2 ⟨Bool.eq_false_iff.2 (mt hhm.1 h), rfl⟩, fun ⟨h0, h1⟩ => ?_, fun ⟨h0, h1, hx⟩ => ?_,
    fun ⟨h0, h1, hx⟩ => exec_scanAccept.2 ⟨hhm.2 ⟨h0, h1⟩, hcm.2 hx, rfl⟩⟩
  · simp only [x, h0, h1]
    rfl
  · exact exec_scanBadsum.2 ⟨hhm.2 ⟨h0, h1⟩, Bool.eq_false_iff.2 (mt hcm.1 hx), rfl⟩

/-! ## The copies -/

/-- `COPY i`. -/
def copyOp : Fin 8 → Instr
  | 0 => .copy0
  | 1 => .copy1
  | 2 => .copy2
  | 3 => .copy3
  | 4 => .copy4
  | 5 => .copy5
  | 6 => .copy6
  | 7 => .copy7

theorem careMask_copyOp (i : Fin 8) : careMask (copyOp i) = .top 0xFC1#12 := by
  revert i; decide

theorem encode_copyOp (i : Fin 8) : encode (copyOp i) = .top (0x800#12 ||| (BitVec.ofNat 12 (i.val + 1) <<< 6)) := by
  revert i; decide

/-- The phase `Copy(i)`, as a code and as a number (R46). -/
theorem fg_eq_ofNat_iff {fg : BitVec 4} (i : Fin 8) : fg = BitVec.ofNat 4 (i.val + 1) ↔ fg.toNat = i.val + 1 := by
  rw [← BitVec.toNat_inj, BitVec.toNat_ofNat, Nat.mod_eq_of_lt (by omega)]

theorem exec_copyOp (i : Fin 8) {s t : State} :
    exec (copyOp i) s = .next t ↔ s.fault = false ∧ s.fg.toNat = i.val + 1 ∧ t = s.copyRow i := by
  have harm : exec (copyOp i) s = runWhen (s.copies i) (copyOp i) (s.copyRow i) := by
    match i with
    | 0 | 1 | 2 | 3 | 4 | 5 | 6 | 7 => rfl
  rw [harm, exec_copy, fg_eq_ofNat_iff]; rfl

theorem State.copyRow_fg {s : State} {i : Fin 8} (hfg : s.fg.toNat = i.val + 1) : (s.copyRow i).fg.toNat = i.val + 2 := by
  show (s.fg + 1#4).toNat = _
  rw [BitVec.toNat_add, hfg]
  exact Nat.mod_eq_of_lt (show i.val + 1 + 1 < 16 by omega)

theorem State.dispRead_copyRow (s : State) (i j : Fin 8) :
    (s.copyRow i).dispRead j = if j = i then s.win (2 + i.val) else s.dispRead j := by
  show (s.disp.write i.val (s.win (2 + i.val))).read j.val = _
  rw [Memory.read_write]
  simp only [Fin.val_inj, State.dispRead]

/-- Settles O31: each `COPY i` is the one write of a row and the next phase. -/
theorem copyOneRow : Obligations.CopyOneRow := by
  intro i op hmem
  obtain ⟨k, hk⟩ : ∃ k, (k, copyOp k) = (i, op) := List.mem_ofFn.1 hmem
  obtain ⟨rfl, rfl⟩ := Prod.mk.inj hk
  refine ⟨decodeTop_iff_of_pattern (careMask_copyOp k) (encode_copyOp k), fun s hf hfg => ?_⟩
  refine ⟨s.copyRow k, (exec_copyOp k).2 ⟨hf, hfg, rfl⟩, ?_, fun j hj => ?_, ?_, rfl⟩
  · rw [State.dispRead_copyRow, if_pos rfl, State.win_eq, Nat.add_assoc]
  · rw [State.dispRead_copyRow, if_neg hj]
  · rw [State.copyRow_fg hfg, hfg]

/-! ## The clear -/

/-- Up to ten bytes appended to a zeroed ring leave a 0x00 at the front of the window. -/
theorem State.hm_foldl_appendByte_of_zero {s : State} (hzero : ∀ j : Fin 11, s.ringRead j = 0x00#8) {bytes : List Byte}
    (hlen : bytes.length ≤ 10) : (bytes.foldl State.appendByte s).hm = false := by
  have hfront : (bytes.foldl State.appendByte s).win 0 = 0x00#8 := by
    rw [State.win_foldl_appendByte s bytes (by decide), if_pos (by omega)]
    exact hzero _
  rw [State.hm, hfront]
  rfl

/-- Settles O32: `CLEAR` zeroes cell after cell, and the window fills from its young end. -/
theorem clearConsumesTheFrame : Obligations.ClearConsumesTheFrame := by
  refine ⟨decodeTop_iff_of_pattern rfl rfl, fun s hf hfg => ?_⟩
  have hzero : ∀ j : Fin 11, s.clearRing.ringRead j = 0x00#8 := fun j =>
    (Memory.read_zeroCells s.ring 11 j.val).trans (if_pos j.isLt)
  exact ⟨s.clearRing, exec_clear.2 ⟨hf, hfg, rfl⟩, hzero, rfl, Memory.zeroCells_eq_nil,
    fun _ hlen => State.hm_foldl_appendByte_of_zero hzero hlen⟩

/-! ## The transitions of the phase -/

/-- From `s` to `t` the phase is kept, or `t` is in `Copy(0)` with a frame in its window. -/
def State.keepsOrAccepts (s t : State) : Prop := t.fg = s.fg ∨ t.fg = fgCopy0 ∧ t.hm = true ∧ t.cm = true

theorem State.appendByte_keepsOrAccepts (s : State) (v : Byte) : s.keepsOrAccepts (s.appendByte v) := by
  have hfg := s.appendByte_fg v
  split at hfg
  · next h => exact .inr ⟨hfg, Bool.and_eq_true_iff.1 h⟩
  · exact .inl hfg

theorem State.shiftLoop_keepsOrAccepts (b : Bool) (n : Nat) (s : State) : s.keepsOrAccepts (State.shiftLoop b n s) := by
  obtain ⟨t, a, hone, hloop⟩ := State.shiftLoop_appends b n s
  rw [hloop]
  rcases hone with rfl | ⟨v, rfl⟩
  · exact .inl rfl
  · exact s.appendByte_keepsOrAccepts v

theorem State.shiftBit_keepsOrAccepts (s : State) (b : Bool) : s.keepsOrAccepts (s.shiftBit b) := by
  rw [State.shiftBit_eq]
  split
  · exact (s.setAcc _).appendByte_keepsOrAccepts _
  · exact .inl rfl

theorem State.dataEdge_keepsOrAccepts (s : State) : s.keepsOrAccepts s.dataEdge := by
  have hloop := State.shiftLoop_keepsOrAccepts (bitValue s.obs.level) (periods s.obs.interval s.bw) s.sawObs
  simp only [State.dataEdge]
  split <;> exact hloop

/-- The operations with `fg` in their footprint. -/
theorem fg_writers {i : Instr} {s t : State} (h : exec i s = .next t) (hfg : t.fg ≠ s.fg) :
    (i = .scanAccept ∨ i = .append ∨ (∃ b, i = .shift b) ∨ ∃ l, i = .dataEdge l) ∨ (∃ k, i = copyOp k) ∨ i = .clear := by
  rw [exec_footprint h] at hfg
  revert hfg
  cases i
  case copy0 => exact fun _ => .inr (.inl ⟨0, rfl⟩)
  case copy1 => exact fun _ => .inr (.inl ⟨1, rfl⟩)
  case copy2 => exact fun _ => .inr (.inl ⟨2, rfl⟩)
  case copy3 => exact fun _ => .inr (.inl ⟨3, rfl⟩)
  case copy4 => exact fun _ => .inr (.inl ⟨4, rfl⟩)
  case copy5 => exact fun _ => .inr (.inl ⟨5, rfl⟩)
  case copy6 => exact fun _ => .inr (.inl ⟨6, rfl⟩)
  case copy7 => exact fun _ => .inr (.inl ⟨7, rfl⟩)
  all_goals simp [State.footprint]

/-- Settles O33: the writers of `fg` that append can only accept, and the others move it from the phase of their condition. -/
theorem phaseTransitions : Obligations.PhaseTransitions := by
  intro i s t h hfg
  have haccept : s.keepsOrAccepts t → t.fg = 1#4 ∧ t.hm = true ∧ t.cm = true := fun hk => hk.resolve_left hfg
  rcases fg_writers h hfg with (rfl | rfl | ⟨b, rfl⟩ | ⟨l, rfl⟩) | ⟨k, rfl⟩ | rfl
  · obtain ⟨hhm, hcm, rfl⟩ := exec_scanAccept.1 h
    exact .inl ⟨.inl rfl, rfl, hhm, hcm⟩
  · cases exec_append.1 h
    exact .inl ⟨.inr (.inl rfl), haccept (s.appendByte_keepsOrAccepts _)⟩
  · cases exec_shift.1 h
    exact .inl ⟨.inr (.inr (.inl ⟨b, rfl⟩)), haccept (s.shiftBit_keepsOrAccepts b)⟩
  · obtain ⟨-, hpoll, -, -, -, -, rfl⟩ := exec_dataEdge.1 h
    exact .inl ⟨.inr (.inr (.inr ⟨l, rfl, hpoll⟩)), haccept s.dataEdge_keepsOrAccepts⟩
  · obtain ⟨-, hphase, rfl⟩ := (exec_copyOp k).1 h
    exact .inr (.inl ⟨k, rfl, hphase, State.copyRow_fg hphase⟩)
  · obtain ⟨-, hclear, rfl⟩ := exec_clear.1 h
    exact .inr (.inr ⟨rfl, hclear, rfl⟩)

/-! ## Acceptance -/

/-- Settles O34: the eleven bytes fill the window at any rotation, and the scan of the last append sees all of them. -/
theorem frameIsAcceptedAtEveryRotation : Obligations.FrameIsAcceptedAtEveryRotation := by
  intro s payload hlen
  have hwindow := fun c => State.window_of_frame hlen (window_after_last_byte s [] hlen c)
  simp only [List.nil_append, List.foldl_append, List.foldl_cons, List.foldl_nil] at hwindow
  refine ⟨?_, fun c hc => ?_⟩
  · obtain ⟨hhm, hcm, hpayload⟩ := hwindow (payloadChecksum payload)
    have hcur := s.cur_foldl_appendByte (frameBytes payload)
    simp only [frameBytes_eq, List.foldl_append, List.foldl_cons, List.foldl_nil] at hcur ⊢
    refine ⟨?_, Fin.ext ?_, hpayload⟩
    · rw [State.appendByte_fg, hhm, hcm.2 rfl]; rfl
    · rw [hcur]; simp [hlen]
  · obtain ⟨hhm, hcm, -⟩ := hwindow c
    have hbad := Bool.eq_false_iff.2 (mt hcm.1 hc)
    simp only [List.foldl_append, List.foldl_cons, List.foldl_nil]
    refine ⟨?_, hhm, hbad⟩
    rw [State.appendByte_fg, hhm, hbad]; rfl

/-- The checksum matches exactly if the eleven bytes of the window XOR to zero. -/
theorem State.cm_iff_winXor (s : State) : s.cm = true ↔ s.winXor 11 = 0x00#8 := by
  rw [State.cm_iff, State.winXor, BitVec.xor_eq_zero_iff]; rfl

/-- A byte of the window changed by `mask` changes the XOR of the places that include it by `mask`. -/
theorem State.winXor_ringWrite (s : State) (mask : Byte) {k count : Nat} (hk : k < 11) (hcount : count ≤ 11) :
    (s.ringWrite (ringIndex s.cur k) (s.win k ^^^ mask)).winXor count =
      if k < count then s.winXor count ^^^ mask else s.winXor count := by
  induction count with
  | zero => rfl
  | succ count ih =>
    rw [State.winXor, ih (by omega), State.win_ringWrite s _ hk (by omega), State.winXor]
    rcases Nat.lt_trichotomy k count with h | h | h
    · rw [if_pos h, if_neg (by omega), if_pos (by omega), BitVec.xor_assoc, BitVec.xor_comm mask, BitVec.xor_assoc]
    · rw [if_neg (by omega), if_pos h.symm, if_pos (by omega), h, BitVec.xor_assoc]
    · rw [if_neg (by omega), if_neg (by omega), if_neg (by omega)]

theorem one_shiftLeft_ne_zero : ∀ bit < 8, 1#8 <<< bit ≠ 0x00#8 := by decide

/-- Settles O36: the flipped bit is the XOR of the eleven bytes, so the checksum fails, whichever byte it is in. -/
theorem flippedBitIsRejected : Obligations.FlippedBitIsRejected := by
  intro s k bit hk hbit _ hcm t
  have hsum : t.winXor 11 = 1#8 <<< bit := by
    rw [State.winXor_ringWrite s _ hk le_rfl, if_pos hk, s.cm_iff_winXor.1 hcm, BitVec.zero_xor]
  have hbad : t.cm = false := by
    rw [Bool.eq_false_iff, ne_eq, State.cm_iff_winXor, hsum]
    exact one_shiftLeft_ne_zero bit hbit
  rw [hbad, Bool.and_false]

/-! ## The copy-out among the other agents -/

/-- `u` is the state `s` of an acceptance after `j` foreground operations, whatever else ran: the rows below `j` are published, the
ring is cleared by the ninth, and the other cells of the foreground are kept. -/
structure State.Publishing (s : State) (j : Nat) (u : State) : Prop where
  phase : u.fg.toNat = (j + 1) % 10
  fault : u.fault = false
  rows : ∀ i : Fin 8, u.dispRead i = if i.val < j then s.win (2 + i.val) else s.dispRead i
  ring : j ≤ 8 → u.ring = s.ring
  cleared : j = 9 → ∀ k : Fin 11, u.ringRead k = 0x00#8
  cur : u.cur = s.cur
  last : u.last = s.last
  st : u.st = s.st
  bw : u.bw = s.bw
  acc : u.acc = s.acc

section
variable {s u v : State} {i : Instr} {j : Nat}

theorem State.publishing_zero (hf : s.fault = false) (hfg : s.fg = fgCopy0) : s.Publishing 0 s where
  phase := congrArg BitVec.toNat hfg
  fault := hf
  rows _ := (if_neg (Nat.not_lt_zero _)).symm
  ring _ := rfl
  cleared h := absurd h (by decide)
  cur := rfl
  last := rfl
  st := rfl
  bw := rfl
  acc := rfl

/-- The timer, EdgeCapture and the scanner leave the copy-out as it is (R49, R84). -/
theorem State.Publishing.other_agent (h : s.Publishing j u) (he : exec i u = .next v) (hag : i.agent ≠ .foreground) :
    s.Publishing j v := by
  obtain ⟨-, -, -, howns, -⟩ := agentsWriteOnlyTheirCells i u v he
  obtain ⟨⟨hlast, hst, hbw, hacc, hring, hcur, hfg, hfault⟩, hdisp⟩ := howns hag
  exact
    { phase := by rw [hfg]; exact h.phase
      fault := hfault.trans h.fault
      rows := fun i => by rw [State.dispRead, hdisp]; exact h.rows i
      ring := fun hj => hring.trans (h.ring hj)
      cleared := fun hj k => by rw [State.ringRead, hring]; exact h.cleared hj k
      cur := hcur.trans h.cur
      last := hlast.trans h.last
      st := hst.trans h.st
      bw := hbw.trans h.bw
      acc := hacc.trans h.acc }

/-- `COPY i` publishes row `i`. -/
theorem State.Publishing.copyRow {r : Fin 8} (h : s.Publishing r.val u) : s.Publishing (r.val + 1) (u.copyRow r) where
  phase := by
    rw [State.copyRow_fg (by rw [h.phase]; omega)]; omega
  fault := h.fault
  rows i := by
    have hwin : u.win (2 + r.val) = s.win (2 + r.val) := State.win_congr (h.ring (by omega)) h.cur _
    rw [State.dispRead_copyRow, h.rows, hwin]
    rcases Nat.lt_trichotomy i.val r.val with hlt | heq | hgt
    · rw [if_neg (by omega), if_pos hlt, if_pos (by omega)]
    · rw [if_pos (Fin.ext heq), if_pos (by omega), heq]
    · rw [if_neg (by omega), if_neg (by omega), if_neg (by omega)]
  ring _ := h.ring (by omega)
  cleared hj := absurd hj (by omega)
  cur := h.cur
  last := h.last
  st := h.st
  bw := h.bw
  acc := h.acc

/-- `CLEAR` ends the copy-out. -/
theorem State.Publishing.clear (h : s.Publishing 8 u) {zeroed : Memory} (hzero : ∀ k : Fin 11, zeroed.read k.val = 0x00#8) :
    s.Publishing 9 ((u.setRing zeroed).setFg fgPoll) where
  phase := rfl
  fault := h.fault
  rows i := (h.rows i).trans (by rw [if_pos i.isLt, if_pos (by omega)])
  ring hj := absurd hj (by decide)
  cleared _ := hzero
  cur := h.cur
  last := h.last
  st := h.st
  bw := h.bw
  acc := h.acc

/-- Up to the ninth, every foreground operation is the next one of the copy-out (R186, R187). -/
theorem State.Publishing.foreground (h : s.Publishing j u) (hj : j ≤ 8) (hop : u.foregroundOp = some i)
    (he : exec i u = .next v) : s.Publishing (j + 1) v := by
  have hphase : u.fg.toNat = j + 1 := by rw [h.phase]; omega
  rcases Nat.lt_or_eq_of_le hj with hlt | rfl
  · obtain ⟨r, rfl⟩ : ∃ r : Fin 8, r.val = j := ⟨⟨j, hlt⟩, rfl⟩
    obtain ⟨op, hop', -, he'⟩ := foreground_copy r h.fault ((fg_eq_ofNat_iff r).2 hphase)
    cases hop.symm.trans hop'
    cases he.symm.trans he'
    exact h.copyRow
  · have hfg : u.fg = fgClear := BitVec.eq_of_toNat_eq hphase
    cases hop.symm.trans (foregroundOp_of_enables (i := .clear) rfl rfl ⟨h.fault, hfg⟩)
    obtain ⟨-, -, rfl⟩ := exec_clear.1 he
    exact h.clear fun k => (Memory.read_zeroCells u.ring 11 k.val).trans (if_pos k.isLt)

/-- The copy-out goes on by one with each foreground trigger of a stimulus, up to nine. -/
theorem State.Publishing.afterStimulus {stimulus : List Trigger} (h : s.Publishing j u) (hr : u.running)
    (hcount : j + stimulus.count .foreground ≤ 9) (hrun : afterStimulus stimulus u = .next v) :
    s.Publishing (j + stimulus.count .foreground) v := by
  induction stimulus generalizing j u with
  | nil => cases hrun; exact { h with }
  | cons e rest ih =>
    obtain ⟨i, w, hop, he, hrw, hrest⟩ := (afterStimulus_cons hr).1 hrun
    by_cases hfore : e = .foreground
    · subst hfore
      rw [List.count_cons_self, Nat.add_comm _ 1, ← Nat.add_assoc] at hcount ⊢
      exact ih (h.foreground (by omega) hop he) hrw hcount hrest
    · have hag : i.agent ≠ .foreground := by
        rw [opOf_agent hop]
        revert hfore
        cases e <;> simp [Trigger.agent]
      rw [List.count_cons_of_ne hfore] at hcount ⊢
      exact ih (h.other_agent he hag) hrw hcount hrest

end

/-- Settles O35: nine foreground operations are the whole copy-out, alone and among other triggers. -/
theorem copyOutUnderInterrupts : Obligations.CopyOutUnderInterrupts := by
  intro s hr hf hfg
  refine ⟨?_, fun t stimulus hcount hrun => ?_⟩
  · obtain ⟨disp, hsteps, -⟩ := fgSteps_publish hf hfg
    exact ⟨_, (hsteps.afterStimulus hr).2⟩
  · have h := (State.publishing_zero hf hfg).afterStimulus hr (by omega) hrun
    rw [hcount] at h
    exact ⟨fun i => (h.rows i).trans (if_pos (by omega)), h.cleared rfl, h.cur, BitVec.eq_of_toNat_eq h.phase, h.last, h.st, h.bw,
      h.acc, h.fault⟩

/-- A run uses up its stimulus. -/
theorem schedule_afterStimulus {stimulus : List Trigger} {s t : State} (hr : s.running) (h : afterStimulus stimulus s = .next t) :
    t.schedule = [] := by
  induction stimulus generalizing s with
  | nil => cases h; rfl
  | cons e rest ih =>
    obtain ⟨-, u, -, -, hru, hrest⟩ := (afterStimulus_cons hr).1 h
    exact ih hru hrest

/-- A refresh tick at the end of a run is `TICK` in the state that the run leaves. -/
theorem afterStimulus_concat_refreshTick {stimulus : List Trigger} {s u t : State} (hr : s.running)
    (hrun : afterStimulus stimulus s = .next u) (htick : exec .tick u = .next t) :
    afterStimulus (stimulus ++ [.refreshTick]) s = .next t := by
  have hru : u.running := by
    obtain ⟨u', hrun', hru', -⟩ := (afterStimulus_append (b := []) hr).1 (by rw [List.append_nil]; exact hrun)
    cases hrun.symm.trans hrun'
    exact hru'
  have hdone : t.setSchedule [] = t := by
    rw [← schedule_afterStimulus hr hrun, ← (exec_outside htick).2.1]; rfl
  refine (afterStimulus_append hr).2 ⟨u, hrun, hru, (afterStimulus_cons hru).2 ⟨.tick, t, rfl, htick, running_of_exec hru htick, ?_⟩⟩
  rw [afterStimulus_nil, hdone]

/-- Settles O43: the tick shows its row as the copy-out has left it. -/
theorem tornUpdateShowsOldOrNewRow : Obligations.TornUpdateShowsOldOrNewRow := by
  intro s u stimulus hr hf hfg hcount hrun
  have h := (State.publishing_zero hf hfg).afterStimulus hr (by omega) hrun
  rw [Nat.zero_add] at h
  have htick : exec .tick u = .next _ := exec_tick.2 rfl
  exact ⟨_, htick, afterStimulus_concat_refreshTick hr hrun htick, h.rows (u.row + 1#3).toFin⟩

end Sys2Proof.Machine

/-!
DisplayScanner (spec/43_display_scanner.md): the refresh tick and its four sub-steps, the physical lines behind the wiring, and the
round robin of the rows among the operations of the other agents.
-/

namespace Sys2Proof.Machine

/-! ## The refresh tick -/

/-- The successor of the row index, as R201 writes it. -/
theorem toNat_row_add_one (row : BitVec 3) : (row + 1#3).toNat = (row.toNat + 1) % 8 := BitVec.toNat_add row 1#3

theorem ofNat_row_add_one (row : BitVec 3) : BitVec.ofNat 3 ((row.toNat + 1) % 8) = row + 1#3 := by
  rw [← toNat_row_add_one, BitVec.ofNat_toNat, BitVec.setWidth_eq]

/-- The next state of `TICK`, by the number of the row it moves to (R200). -/
theorem exec_tick_eq (s : State) :
    exec .tick s = .next { s with
      row := BitVec.ofNat 3 ((s.row.toNat + 1) % 8)
      col := s.disp.read ((s.row.toNat + 1) % 8)
      rowsel := 1#8 <<< ((s.row.toNat + 1) % 8) } := by
  rw [exec_tick, ofNat_row_add_one, ← toNat_row_add_one]; rfl

/-- Settles O38: the operations of the sub-steps are the four updates that `TICK` composes, and none of them stops. -/
theorem refreshTick : Obligations.RefreshTick :=
  ⟨decodeTop_iff_of_pattern rfl rfl, rfl, fun s => ⟨rfl, exec_tick_eq s⟩⟩

/-! ## The physical lines -/

/-- A physical line is asserted when it is the line of a row whose bit of `ROWSEL` is set (R45). -/
theorem Wiring.asserts_iff (w : Wiring) (s : State) (l : SelectLine) :
    w.asserts s l = true ↔ ∃ r : Fin 8, w.rowMap r = l ∧ s.rowsel.getLsbD r.val = true := by
  simp only [Wiring.asserts, List.any_eq_true, List.mem_ofFn, exists_exists_eq_and, id_eq, Bool.and_eq_true, decide_eq_true_eq]

theorem Wiring.asserts_of_rowsel_zero (w : Wiring) {s : State} (h : s.rowsel = 0x00#8) (l : SelectLine) :
    w.asserts s l = false := by
  rw [Bool.eq_false_iff, ne_eq, Wiring.asserts_iff]
  simp [h]

theorem getLsbD_one_shiftLeft_iff {n k : Nat} (hn : n < 8) : (1#8 <<< n).getLsbD k = true ↔ k = n := by
  change (BitVec.twoPow 8 n).getLsbD k = true ↔ k = n
  simp only [BitVec.getLsbD_twoPow, hn, decide_true, Bool.true_and, decide_eq_true_eq, eq_comm (a := k)]

/-- With one row selected, the line of that row is asserted and no other (R204). -/
theorem Wiring.asserts_of_rowsel_single (w : Wiring) {s : State} {n : Fin 8} (h : s.rowsel = 1#8 <<< n.val) (l : SelectLine) :
    w.asserts s l = true ↔ w.rowMap n = l := by
  simp only [Wiring.asserts_iff, h, getLsbD_one_shiftLeft_iff n.isLt, Fin.val_inj, exists_eq_right]

/-- Settles O39: each sub-step is one write, and behind an injective `RowMap` the asserted line is the line of one row only. -/
theorem tickSubSteps : Obligations.TickSubSteps := by
  refine ⟨decodeSub_iff_of_word rfl rfl, decodeSub_iff_of_word rfl rfl, decodeSub_iff_of_word rfl rfl,
    decodeSub_iff_of_word rfl rfl, fun s => ?_, fun s => exec_tBlank.2 rfl, fun s t w l h => ?_, fun s => exec_tCols.2 rfl,
    fun s => exec_tSelect.2 rfl, fun s t w hinj h r => ?_⟩
  · rw [exec_tAdv, ofNat_row_add_one]; rfl
  · cases exec_tBlank.1 h
    exact w.asserts_of_rowsel_zero rfl l
  · cases exec_tSelect.1 h
    rw [w.asserts_of_rowsel_single (n := s.rowIndex) rfl]
    exact ⟨fun hline => congrArg Fin.val (hinj _ _ hline).symm, fun hr => congrArg w.rowMap (Fin.ext hr.symm)⟩

/-! ## The outputs inside a tick -/

/-- The trace of a tick (R205), by the number of the row it moves to. -/
theorem State.tickTrace_eq (s : State) :
    s.tickTrace = [(s.rowsel, s.col), (0x00#8, s.col), (0x00#8, s.disp.read ((s.row.toNat + 1) % 8)),
      (1#8 <<< ((s.row.toNat + 1) % 8), s.disp.read ((s.row.toNat + 1) % 8))] := by
  rw [← toNat_row_add_one]; rfl

/-- Settles O40: the pair is the scanner's own, so it stays as `TICK` leaves it while the other agents run. -/
theorem outputTraceOfATick : Obligations.OutputTraceOfATick := by
  refine fun s => ⟨s.tickTrace_eq, ⟨_, exec_tick_eq s, rfl⟩, fun i t hagent h => ?_⟩
  obtain ⟨-, -, -, -, howns⟩ := agentsWriteOnlyTheirCells i s t h
  obtain ⟨-, hcol, hrowsel⟩ := howns hagent
  exact Prod.ext hrowsel hcol

/-- Behind the wiring at most one line is asserted in a state that meets the invariant: the line of `row` (R206). -/
theorem State.Inv.line_of_asserts {s : State} (h : s.Inv) {w : Wiring} {l : SelectLine} (hl : w.asserts s l = true) :
    w.rowMap s.rowIndex = l := by
  rcases h.rowsel_legal with hzero | hsingle
  · rw [w.asserts_of_rowsel_zero hzero] at hl; cases hl
  · exact (w.asserts_of_rowsel_single (n := s.rowIndex) hsingle l).1 hl

/-- Settles O41: the invariant speaks for the value before the tick, and the trace for the three after it. -/
theorem atMostOneRowIsSelected : Obligations.AtMostOneRowIsSelected := by
  intro s hinv
  refine ⟨fun p hp => ?_, fun w l l' _ hl hl' => ?_, ⟨_, exec_tick.2 rfl, rfl, rfl⟩⟩
  · rw [s.tickTrace_eq] at hp
    simp only [List.mem_cons, List.not_mem_nil, or_false] at hp
    rcases hp with rfl | rfl | rfl | rfl
    · exact hinv.rowsel_legal.imp_right fun h => ⟨s.rowIndex, h⟩
    · exact .inl rfl
    · exact .inl rfl
    · exact .inr ⟨⟨(s.row.toNat + 1) % 8, Nat.mod_lt _ (by decide)⟩, rfl⟩
  · exact (hinv.line_of_asserts hl).symm.trans (hinv.line_of_asserts hl')

/-! ## The round robin -/

/-- `u` is the state `s` after `n` refresh ticks, whatever else ran: the row has moved on by `n`, and it is the row selected once a
tick has run. -/
structure State.Scanned (s : State) (n : Nat) (u : State) : Prop where
  row : u.row.toNat = (s.row.toNat + n) % 8
  rowsel : 1 ≤ n → u.rowsel = 1#8 <<< u.row.toNat

section
variable {s u v : State} {i : Instr} {n : Nat}

theorem State.scanned_zero (s : State) : s.Scanned 0 s where
  row := (Nat.mod_eq_of_lt s.row.isLt).symm
  rowsel h := absurd h (by decide)

theorem State.Scanned.tick (h : s.Scanned n u) (he : exec .tick u = .next v) : s.Scanned (n + 1) v := by
  cases exec_tick.1 he
  exact { row := by
            calc (u.row + 1#3).toNat = (u.row.toNat + 1) % 8 := toNat_row_add_one u.row
              _ = (s.row.toNat + (n + 1)) % 8 := by rw [h.row]; omega
          rowsel := fun _ => rfl }

/-- The timer, EdgeCapture and the foreground leave the scanner as it is (R49, R84). -/
theorem State.Scanned.other_agent (h : s.Scanned n u) (he : exec i u = .next v) (hagent : i.agent ≠ .displayScanner) :
    s.Scanned n v := by
  obtain ⟨-, -, -, -, howns⟩ := agentsWriteOnlyTheirCells i u v he
  obtain ⟨hrow, -, hrowsel⟩ := howns hagent
  exact
    { row := hrow ▸ h.row
      rowsel := fun hn => by rw [hrowsel, hrow]; exact h.rowsel hn }

/-- The row moves on by one with each refresh tick of a stimulus. -/
theorem State.Scanned.afterStimulus {stimulus : List Trigger} (h : s.Scanned n u) (hr : u.running)
    (hrun : afterStimulus stimulus u = .next v) : s.Scanned (n + stimulus.count .refreshTick) v := by
  induction stimulus generalizing n u with
  | nil => cases hrun; exact { h with }
  | cons e rest ih =>
    obtain ⟨i, w, hop, he, hrw, hrest⟩ := (afterStimulus_cons hr).1 hrun
    by_cases htick : e = .refreshTick
    · subst htick
      cases hop
      rw [List.count_cons_self, Nat.add_comm _ 1, ← Nat.add_assoc]
      exact ih (h.tick he) hrw hrest
    · have hagent : i.agent ≠ .displayScanner := by
        rw [opOf_agent hop]
        revert htick
        cases e <;> simp [Trigger.agent]
      rw [List.count_cons_of_ne htick]
      exact ih (h.other_agent he hagent) hrw hrest

end

/-- Refresh ticks alone never stop a running block. -/
theorem exists_afterStimulus_ticks {s : State} (hr : s.running) (n : Nat) : ∃ t, afterStimulus (ticks n) s = .next t := by
  induction n generalizing s with
  | zero => exact ⟨_, afterStimulus_nil s⟩
  | succ n ih =>
    have htick : exec .tick s = .next _ := exec_tick.2 rfl
    have hrunning := running_of_exec hr htick
    obtain ⟨t, ht⟩ := ih hrunning
    exact ⟨t, (afterStimulus_cons hr).2 ⟨.tick, _, rfl, htick, hrunning, ht⟩⟩

/-- Settles O42: the scanner counts the refresh ticks of a run; from reset it counts from row 0. -/
theorem rowsGoRoundRobin : Obligations.RowsGoRoundRobin := by
  have hscan {s t : State} {stimulus : List Trigger} (hr : s.running) (hrun : afterStimulus stimulus s = .next t) :
      s.Scanned (stimulus.count .refreshTick) t := by
    simpa only [Nat.zero_add] using s.scanned_zero.afterStimulus hr hrun
  refine ⟨fun s t stimulus hr hrun => ⟨(hscan hr hrun).row, (hscan hr hrun).rowsel⟩, fun n => ?_⟩
  have hreset : State.reset.running := ⟨rfl, rfl⟩
  obtain ⟨t, ht⟩ := exists_afterStimulus_ticks hreset n
  refine ⟨t, ht, (hscan hreset ht).row.trans ?_⟩
  calc (State.reset.row.toNat + (ticks n).count .refreshTick) % 8 = (0 + n) % 8 := by rw [ticks, List.count_replicate_self]; rfl
    _ = n % 8 := by rw [Nat.zero_add]

end Sys2Proof.Machine

/-!
The fault and the order of the agents (spec/60_exceptions.md): `DATA.FAULT` is the only operation that writes `fault`, a fault stops the
foreground for good, and a capture and a refresh tick at the same moment commute.
-/

namespace Sys2Proof.Machine

/-! ## The writer of the fault -/

/-- `fault` is in the footprint of `DATA.FAULT` alone (R47). -/
theorem fault_of_ne_dataFault {i : Instr} {s t : State} (h : exec i s = .next t) (hi : i ≠ .dataFault) : t.fault = s.fault := by
  rw [exec_footprint h]
  cases i
  case dataFault => exact absurd rfl hi
  all_goals rfl

/-- Settles O52: the one writer of `fault` needs it clear and leaves it set. -/
theorem onlyDataFaultRaises : Obligations.OnlyDataFaultRaises := by
  intro i s t h
  by_cases hi : i = .dataFault
  · subst hi
    obtain ⟨-, -, hobs, hst, hbw, rfl⟩ := exec_dataFault.1 h
    exact ⟨fun _ => rfl, fun _ _ => ⟨rfl, hst, hbw, hobs, rfl⟩⟩
  · have hkept := fault_of_ne_dataFault h hi
    exact ⟨hkept.trans, fun hclear hset => absurd (hset.symm.trans (hkept.trans hclear)) (by decide)⟩

/-! ## Runs after the fault -/

section
variable {s t u : State}

theorem State.sameForeground.refl (s : State) : s.sameForeground s := ⟨rfl, rfl, rfl, rfl, rfl, rfl, rfl, rfl⟩

theorem State.sameForeground.trans (h : s.sameForeground t) (h' : t.sameForeground u) : s.sameForeground u := by
  obtain ⟨hlast, hst, hbw, hacc, hring, hcur, hfg, hfault⟩ := h
  obtain ⟨hlast', hst', hbw', hacc', hring', hcur', hfg', hfault'⟩ := h'
  exact ⟨hlast'.trans hlast, hst'.trans hst, hbw'.trans hbw, hacc'.trans hacc, hring'.trans hring, hcur'.trans hcur, hfg'.trans hfg,
    hfault'.trans hfault⟩

theorem State.sameForeground.fault (h : s.sameForeground t) : t.fault = s.fault := by
  obtain ⟨-, -, -, -, -, -, -, hfault⟩ := h
  exact hfault

/-- After the fault no trigger changes a cell of the foreground or a row of the display: the foreground runs `HALT` (R160), and the
other agents own none of these cells (R49). -/
theorem sameForeground_of_trigger {e : Trigger} {i : Instr} (hf : s.fault = true) (hop : opOf e s = some i)
    (he : exec i s = .next t) : s.sameForeground t ∧ t.disp = s.disp := by
  by_cases hfore : e = .foreground
  · subst hfore
    have hhalt : s.foregroundOp = some .halt := foregroundOp_of_enables rfl rfl hf
    cases hop.symm.trans hhalt
    obtain ⟨-, rfl⟩ := exec_halt.1 he
    exact ⟨.refl _, rfl⟩
  · have hagent : i.agent ≠ .foreground := by
      rw [opOf_agent hop]
      revert hfore
      cases e <;> simp [Trigger.agent]
    obtain ⟨-, -, -, howns, -⟩ := agentsWriteOnlyTheirCells i s t he
    exact howns hagent

/-- The same over a run: the fault that each trigger keeps stops the foreground for the rest of it. -/
theorem sameForeground_afterStimulus {stimulus : List Trigger} (hr : s.running) (hf : s.fault = true)
    (hrun : afterStimulus stimulus s = .next t) : s.sameForeground t ∧ t.disp = s.disp := by
  induction stimulus generalizing s with
  | nil => cases hrun; exact ⟨.refl s, rfl⟩
  | cons e rest ih =>
    obtain ⟨i, u, hop, he, hru, hrest⟩ := (afterStimulus_cons hr).1 hrun
    obtain ⟨hkept, hdisp⟩ := sameForeground_of_trigger hf hop he
    obtain ⟨hkept', hdisp'⟩ := ih hru (hkept.fault.trans hf) hrest
    exact ⟨hkept.trans hkept', hdisp'.trans hdisp⟩

end

/-- Settles O53: `fault` is one of the cells that a run after the fault keeps. -/
theorem faultIsSticky : Obligations.FaultIsSticky := by
  intro s t stimulus hr hf hrun
  obtain ⟨hkept, hdisp⟩ := sameForeground_afterStimulus hr hf hrun
  exact ⟨hkept.fault.trans hf, hkept, hdisp⟩

/-! ## A capture and a refresh tick at the same moment -/

/-- Two operations one after the other. -/
theorem execAll_pair {i j : Instr} {s t u : State} (hi : exec i s = .next t) (hj : exec j t = .next u) :
    execAll [i, j] s = .next u := by
  simp only [execAll, hi, hj]

/-- Settles O14: `CAP` reads and writes no cell but `line`, `obs` and `tcnt`, and `TICK` neither reads nor writes these. -/
theorem captureAndTickCommute : Obligations.CaptureAndTickCommute := by
  intro s l hl
  have hcap {v : State} (hline : v.line = s.line) : exec (.cap l) v = .next _ := exec_cap.2 ⟨hline ▸ hl, rfl⟩
  have htick {v : State} : exec .tick v = .next _ := exec_tick.2 rfl
  exact ⟨_, execAll_pair (hcap rfl) htick, execAll_pair htick (hcap rfl)⟩

end Sys2Proof.Machine

/-!
Reset (spec/70_reset_and_hazards.md): the cells of the reset state, and the first steps from it, for either level of the line and any
contents of the cells that the spec leaves unspecified.
-/

namespace Sys2Proof.Machine

/-! ## The reset state -/

theorem State.ringRead_resetWith (line0 : Level) (bw : Interval) (acc : Accumulator) (j : Fin 11) :
    (State.resetWith line0 bw acc).ringRead j = 0x00#8 := Memory.read_nil j.val

theorem State.dispRead_resetWith (line0 : Level) (bw : Interval) (acc : Accumulator) (i : Fin 8) :
    (State.resetWith line0 bw acc).dispRead i = 0x00#8 := Memory.read_nil i.val

theorem State.running_resetWith (line0 : Level) (bw : Interval) (acc : Accumulator) :
    (State.resetWith line0 bw acc).running := ⟨rfl, rfl⟩

/-- Settles O44: each cell is a field of `State.resetWith`, and an unlisted cell of an array reads 0x00. -/
theorem resetState : Obligations.ResetState := by
  intro bw acc s
  have hring : ∀ j, s.ringRead j = 0x00#8 := State.ringRead_resetWith true bw acc
  have hdisp : ∀ i, s.dispRead i = 0x00#8 := State.dispRead_resetWith true bw acc
  exact ⟨rfl, rfl, rfl, rfl, rfl, hring, rfl, hdisp, rfl, rfl, rfl, rfl, rfl, rfl⟩

/-! ## The first edge -/

/-- The first edge captures the time since reset, since the timer starts at 0 (R252). -/
theorem obs_afterEdge_resetWith (line0 l : Level) (bw : Interval) (acc : Accumulator) (n : Nat) :
    ((State.resetWith line0 bw acc).afterEdge l n).obs = ⟨l, BitVec.ofNat Config.timerWidth n⟩ :=
  congrArg (Observation.mk l) (BitVec.zero_add _)

/-- A rising edge has the level that `last` has at reset, so the interval alone tells whether a poll sees a change (R252). -/
theorem obs_eq_last_afterEdge_resetWith_iff (line0 : Level) (bw : Interval) (acc : Accumulator) (n : Nat) :
    let s := (State.resetWith line0 bw acc).afterEdge true n
    s.obs = s.last ↔ n % 2 ^ Config.timerWidth = 0 := by
  intro s
  have hlast : s.last = ⟨true, 0#16⟩ := rfl
  rw [obs_afterEdge_resetWith, hlast, Observation.mk.injEq, and_iff_right rfl, ← BitVec.toNat_inj, BitVec.toNat_ofNat,
    BitVec.toNat_zero]

/-! ## The poll of the first edge -/

/-- A foreground operation that completes is the one that the selector names (R119). -/
theorem foregroundOp_of_exec {s t : State} {i : Instr} (htop : i.isTop = true) (hag : i.agent = .foreground)
    (he : exec i s = .next t) : s.foregroundOp = some i :=
  foregroundOp_of_enables htop hag (exec_completes_iff.1 ⟨t, he⟩)

/-- A foreground step on its own, by the operation that completes. -/
theorem afterStimulus_foreground {s t : State} {i : Instr} (hr : s.running) (htop : i.isTop = true) (hag : i.agent = .foreground)
    (he : exec i s = .next t) : afterStimulus [.foreground] s = .next (t.setSchedule []) :=
  (afterStimulus_cons hr).2 ⟨i, t, foregroundOp_of_exec htop hag he, he, running_of_exec hr he, afterStimulus_nil t⟩

/-- The poll of a first edge that falls is `IDLE.FALL` whatever the interval: the level already differs from the one in `last`
(R152, R252). -/
theorem exec_idleFall_afterEdge_resetWith (line0 : Level) (bw : Interval) (acc : Accumulator) (n : Nat) :
    let s := (State.resetWith line0 bw acc).afterEdge false n
    exec .idleFall s = .next ((s.setLast s.obs).setSt stStart) := by
  intro s
  have hchanged : s.obs ≠ s.last := fun h => Bool.false_ne_true (congrArg Observation.level h)
  exact exec_idleFall.2 ⟨rfl, rfl, hchanged, rfl, rfl, rfl⟩

/-- The poll of a first edge that rises is `POLL.NOP` or `IDLE.RISE`, by the interval, and either way the decoder stays in `Idle`
(R151, R153, R252). -/
theorem poll_afterEdge_resetWith_rise (line0 : Level) (bw : Interval) (acc : Accumulator) (n : Nat) :
    let s := (State.resetWith line0 bw acc).afterEdge true n
    ∃ u i, s.foregroundOp = some i ∧ i = (if n % 2 ^ Config.timerWidth = 0 then .pollNop else .idleRise) ∧
      exec i s = .next u ∧ u.st = stIdle := by
  intro s
  have hsame : s.obs = s.last ↔ n % 2 ^ Config.timerWidth = 0 := obs_eq_last_afterEdge_resetWith_iff line0 bw acc n
  by_cases hzero : n % 2 ^ Config.timerWidth = 0
  · have hnop : exec .pollNop s = .next s := exec_pollNop.2 ⟨rfl, rfl, hsame.2 hzero, rfl⟩
    exact ⟨_, _, foregroundOp_of_exec rfl rfl hnop, (if_pos hzero).symm, hnop, rfl⟩
  · have hrise : exec .idleRise s = .next (s.setLast s.obs) := exec_idleRise.2 ⟨rfl, rfl, mt hsame.1 hzero, rfl, rfl, rfl⟩
    exact ⟨_, _, foregroundOp_of_exec rfl rfl hrise, (if_neg hzero).symm, hrise, rfl⟩

/-- Settles O45: the timer counts from 0 to the first edge, and the poll compares what that edge captures with `last` at reset. -/
theorem firstStepsAfterReset : Obligations.FirstStepsAfterReset := by
  intro bw acc n
  refine ⟨?high, ?low⟩
  case high =>
    intro r
    have hr : r.running := State.running_resetWith true bw acc
    have hnop : exec .pollNop r = .next r := exec_pollNop.2 ⟨rfl, rfl, rfl, rfl⟩
    refine ⟨(decodeTop_foreground r _).2 (foregroundOp_of_exec rfl rfl hnop), hnop, exec_tick_eq r, fun t l h => ?_, ?_⟩
    · obtain ⟨hl, -⟩ := exec_cap.1 h
      exact Bool.eq_false_iff.2 hl
    · have hfall := exec_idleFall_afterEdge_resetWith true bw acc n
      have hrun : afterStimulus (edge false n ++ [.foreground]) r = .next _ :=
        (afterStimulus_append hr).2
          ⟨_, afterStimulus_edge hr Bool.false_ne_true n, hr, afterStimulus_foreground hr rfl rfl hfall⟩
      rw [edge, List.append_assoc] at hrun
      exact ⟨_, hrun, obs_afterEdge_resetWith true false bw acc n, rfl⟩
  case low =>
    intro r
    have hedge := afterStimulus_edge (State.running_resetWith false bw acc) Bool.false_ne_true.symm n
    obtain ⟨u, i, hop, hi, he, hst⟩ := poll_afterEdge_resetWith_rise false bw acc n
    exact ⟨_, u, i, hedge, obs_afterEdge_resetWith false true bw acc n, (decodeTop_foreground _ i).2 hop, hi, he, hst⟩

end Sys2Proof.Machine
